-- ==== Sys2Proof/Word.lean ====
section
/-! DEFINITION. The word types of the block (R6 of 00_scope.md: u8, u16, u32, u64), every one an unsigned bit pattern. -/

namespace Sys2Proof

/-- `u8`: one byte of the message. -/
abbrev Byte := BitVec 8

/-- `u16`: the width of the CRC register, of seed, target, prefix, table, basis and selector entries (R5). -/
abbrev U16 := BitVec 16

/-- `u32`: a length or a buffer address (R5, R62); also the width of a response word (R61). -/
abbrev U32 := BitVec 32

/-- `u64`: the width of a command word (R60). -/
abbrev U64 := BitVec 64

end Sys2Proof
end

