-- ==== Sys2Proof/Config.lean ====
section
/-! DEFINITION. The parameters of R5 (00_scope.md) and the one value the spec leaves open without a rule for it. -/

namespace Sys2Proof.Config

/-- `POLY`, XORed in when a 1 is shifted out of the top (R5, R80). -/
def poly : U16 := 0x1021

/-- `ROUNDS`, shift rounds per table entry and per byte (R5). -/
def rounds : Nat := 8

/-- `NB`, the number of basis vectors and of selector entries (R5). -/
def nb : Nat := 16

/-- `NSTEP`, the number of Gray-code steps of a search that does not match early (R5). -/
def nstep : Nat := 65536

/-- `SENTINEL`, the value returned when no subset matches (R5, R113). -/
def sentinel : U16 := 0x0000

/-- The greatest capacity a message buffer may have (R5: `0 <= MSGCAP <= 2^32`). -/
def msgcapMax : Nat := 2 ^ 32

/-- The `MSGCAP` of `State.reset`. DESIGN CHOICE (log 1): R5 leaves it open; 16 is the least value with which the
vectors of 95_test_vectors.md run. No statement rests on it: `msgcap` is a field, and statements quantify over it. -/
def resetMsgcap : Nat := 16

/-- What `MSG[a]` holds when nothing has written it since reset, by the number of resets taken and the address.
A FREE VALUE (log 2; R32, R49, 93_implementation_defined.md U1: "an arbitrary but fixed initial content"). -/
opaque unwrittenByte : Nat → Nat → Byte

end Sys2Proof.Config
end

