-- ==== Sys2Proof/Syntax.lean ====
section
/-! DEFINITION. The six commands (R63 of 30_encoding.md), and the lines of the assembler (R66, R67). -/

namespace Sys2Proof

/-- A decoded command, its operands typed as R62 types them: one constructor per row of spec/opcode_table.json. -/
inductive Instr where
  /-- `WRMSG a, byte` (R145). -/
  | wrmsg (a : U32) (byte : Byte)
  /-- `RDMSG a` (R146). -/
  | rdmsg (a : U32)
  /-- `CRC16 seed, L` (R92). -/
  | crc16 (seed : U16) (len : U32)
  /-- `PREFIX seed, L` (R94). -/
  | prefixCrc (seed : U16) (len : U32)
  /-- `FINDPFX L, target` (R115). -/
  | findpfx (len : U32) (target : U16)
  /-- `RECOVER L, ecrc` (R136). -/
  | recover (len : U32) (ecrc : U16)
deriving DecidableEq, Repr

/-- One line of assembler source (R66), its operands the numbers that were written, in the order of the syntax; `fill` is
the one pseudo-instruction (R67), `FILL a, b0, b1, ..., bn`. -/
inductive AsmLine where
  | wrmsg (a byte : Nat)
  | rdmsg (a : Nat)
  | crc16 (seed len : Nat)
  | prefixCrc (seed len : Nat)
  | findpfx (len target : Nat)
  | recover (len ecrc : Nat)
  | fill (a : Nat) (bytes : List Nat)
deriving DecidableEq, Repr

/-- What one line of source text reads as (R66: "One command per line"). -/
inductive SourceLine where
  /-- A mnemonic with its numbers. -/
  | code (l : AsmLine)
  /-- Nothing but blanks and a comment. -/
  | blank
  /-- Neither: no mnemonic of R66 and R67 with the right number of operands. -/
  | malformed
deriving DecidableEq, Repr

end Sys2Proof
end

