-- ==== Sys2Proof/Machine/Operands.lean ====
section
/-! DEFINITION. Operand forms: the fields of a command word (R60), how each operand is taken from it (R62), and the
slices and concatenations of R6 that the rules use. Nothing is sign-extended, scaled or assembled from scattered bits. -/

namespace Sys2Proof

/-- `OP` = `CW[63:56]` (R60). -/
def cwOp (cw : U64) : Byte := cw.extractLsb' 56 8

/-- `RSV` = `CW[55:48]` (R60). -/
def cwRsv (cw : U64) : Byte := cw.extractLsb' 48 8

/-- `ARG` = `CW[47:32]`: seed, target or embedded checksum (R60, R62). -/
def cwArg (cw : U64) : U16 := cw.extractLsb' 32 16

/-- `ARG[15:8]` = `CW[47:40]`, which WRMSG demands to be 0x00 (R62). -/
def cwArgHi (cw : U64) : Byte := cw.extractLsb' 40 8

/-- `ARG[7:0]` = `CW[39:32]`, the byte of WRMSG (R62). -/
def cwArgLo (cw : U64) : Byte := cw.extractLsb' 32 8

/-- `LEN` = `CW[31:0]`: a length or a buffer address (R60, R62). -/
def cwLen (cw : U64) : U32 := cw.extractLsb' 0 32

/-- `CW = OP * 2^56 + RSV * 2^48 + ARG * 2^32 + LEN` (R60). -/
def commandWord (op rsv : Byte) (arg : U16) (len : U32) : U64 := op ++ rsv ++ arg ++ len

/-- `zext_16` of a byte (R7): the byte in the low half, the high half zero. -/
def zext16 (b : Byte) : U16 := b.setWidth 16

/-- `r[15:8]`, which is `r >> 8` read as a u8 (R90). -/
def hiByte (r : U16) : Byte := r.extractLsb' 8 8

/-- `r[7:0]`. -/
def loByte (r : U16) : Byte := r.extractLsb' 0 8

/-- `{hi, lo}` of two bytes (R6): the order of the two checksum bytes (R44). -/
def pairHiLo (hi lo : Byte) : U16 := hi ++ lo

end Sys2Proof
end

