-- ==== Sys2Proof/WellFormed.lean ====
section
/-! DEFINITION. When a source line is well formed (R66: "An assembler refuses an operand that does not fit its field").
A decoded `Instr` needs no check of its own: its operand types are the fields of R62. -/

namespace Sys2Proof.AsmLine

/-- `a` or `L` fits `LEN`: at most 0xFFFF_FFFF. -/
def fitsLen (n : Nat) : Bool := n ≤ 0xFFFFFFFF

/-- `seed`, `target` or `ecrc` fits `ARG`: at most 0xFFFF. -/
def fitsArg (n : Nat) : Bool := n ≤ 0xFFFF

/-- `byte` fits `ARG[7:0]`: at most 0xFF. -/
def fitsByte (n : Nat) : Bool := n ≤ 0xFF

/-- The assembler accepts the line. For `FILL` (R67) the expansion's every `WRMSG` must be accepted and there must be one:
that a `FILL` with no byte is refused is a DESIGN CHOICE (log 10). -/
def wellFormed : AsmLine → Bool
  | .wrmsg a byte => fitsLen a && fitsByte byte
  | .rdmsg a => fitsLen a
  | .crc16 seed len => fitsArg seed && fitsLen len
  | .prefixCrc seed len => fitsArg seed && fitsLen len
  | .findpfx len target => fitsLen len && fitsArg target
  | .recover len ecrc => fitsLen len && fitsArg ecrc
  | .fill a bytes => !bytes.isEmpty && fitsLen (a + (bytes.length - 1)) && bytes.all fitsByte

end Sys2Proof.AsmLine
end

