-- ==== Sys2Proof/Decode.lean ====
section
/-! DEFINITION. Decoding a command word (R63 to R65 of 30_encoding.md), total on every 64-bit word and rejecting by name;
after it the encoder (R65), the opcode map as data (R63), and the assembler with its text (R66, R67). -/

namespace Sys2Proof

/-- Why a word is illegal: the four bullets of R64. All give the same response (R164). -/
inductive IllegalCause where
  /-- `RSV` != 0x00, whatever the opcode. -/
  | reservedNotZero
  /-- A WRMSG word with `ARG[15:8]` != 0x00. -/
  | wrmsgArgHighNotZero
  /-- An RDMSG word with `ARG` != 0x0000. -/
  | rdmsgArgNotZero
  /-- `OP` is none of 0x01, 0x02, 0x10, 0x11, 0x20, 0x21. -/
  | unknownOpcode
deriving DecidableEq, Repr

/-- What the decoder reads from a command word: one of the six commands, or why it is illegal. -/
inductive Decoded where
  | command (i : Instr)
  | illegal (c : IllegalCause)
deriving DecidableEq, Repr

/-- The decode procedure of R65, its tests in R65's order: `RSV`, the per-opcode fixed fields, the opcode. -/
def decode (cw : U64) : Decoded :=
  if cwRsv cw ≠ 0x00 then .illegal .reservedNotZero
  else if cwOp cw = 0x01 then
    if cwArgHi cw ≠ 0x00 then .illegal .wrmsgArgHighNotZero else .command (.wrmsg (cwLen cw) (cwArgLo cw))
  else if cwOp cw = 0x02 then
    if cwArg cw ≠ 0x0000 then .illegal .rdmsgArgNotZero else .command (.rdmsg (cwLen cw))
  else if cwOp cw = 0x10 then .command (.crc16 (cwArg cw) (cwLen cw))
  else if cwOp cw = 0x11 then .command (.prefixCrc (cwArg cw) (cwLen cw))
  else if cwOp cw = 0x20 then .command (.findpfx (cwLen cw) (cwArg cw))
  else if cwOp cw = 0x21 then .command (.recover (cwLen cw) (cwArg cw))
  else .illegal .unknownOpcode

/-- The `OP` column of the opcode map (R63). -/
def opcode : Instr → Byte
  | .wrmsg _ _ => 0x01
  | .rdmsg _ => 0x02
  | .crc16 _ _ => 0x10
  | .prefixCrc _ _ => 0x11
  | .findpfx _ _ => 0x20
  | .recover _ _ => 0x21

/-- The word of a command: the `Encodes as` column of R66, the fixed fields from R63. -/
def encode (i : Instr) : U64 :=
  match i with
  | .wrmsg a byte => commandWord (opcode i) 0x00 (zext16 byte) a
  | .rdmsg a => commandWord (opcode i) 0x00 0x0000 a
  | .crc16 seed len => commandWord (opcode i) 0x00 seed len
  | .prefixCrc seed len => commandWord (opcode i) 0x00 seed len
  | .findpfx len target => commandWord (opcode i) 0x00 target len
  | .recover len ecrc => commandWord (opcode i) 0x00 ecrc len

/-- The `match` column of the opcode map (R63) for a command's row. -/
def rowMatch : Instr → U64
  | .wrmsg _ _ => 0x0100000000000000
  | .rdmsg _ => 0x0200000000000000
  | .crc16 _ _ => 0x1000000000000000
  | .prefixCrc _ _ => 0x1100000000000000
  | .findpfx _ _ => 0x2000000000000000
  | .recover _ _ => 0x2100000000000000

/-- The `mask` column of the opcode map (R63) for a command's row. -/
def rowMask : Instr → U64
  | .wrmsg _ _ => 0xFFFFFF0000000000
  | .rdmsg _ => 0xFFFFFFFF00000000
  | .crc16 _ _ => 0xFFFF000000000000
  | .prefixCrc _ _ => 0xFFFF000000000000
  | .findpfx _ _ => 0xFFFF000000000000
  | .recover _ _ => 0xFFFF000000000000

/-- The word that spec/opcode_table.json's bit numbering gives: `nbits` bits, those above them 0. A command word is one
number of 64 bits (R60), so its numbering is the table's and no byte order enters (R45; log 9). -/
def tableWord (nbits w : Nat) : U64 := BitVec.ofNat 64 (w % 2 ^ nbits)

/-- The instruction the decoder reads from a table word; none where it refuses. -/
def decodeTableWord (nbits w : Nat) : Option Instr :=
  match decode (tableWord nbits w) with
  | .command i => some i
  | .illegal _ => none

/-- `WRMSG a, b0`, `WRMSG a+1, b1`, ..., in that order (R67). -/
def fillCommands (a : Nat) : List Nat → List Instr
  | [] => []
  | b :: bs => .wrmsg (BitVec.ofNat 32 a) (BitVec.ofNat 8 b) :: fillCommands (a + 1) bs

/-- The commands a well-formed line stands for: operand order and fields from R66, `FILL` from R67. -/
def expandLine : AsmLine → List Instr
  | .wrmsg a byte => [.wrmsg (BitVec.ofNat 32 a) (BitVec.ofNat 8 byte)]
  | .rdmsg a => [.rdmsg (BitVec.ofNat 32 a)]
  | .crc16 seed len => [.crc16 (BitVec.ofNat 16 seed) (BitVec.ofNat 32 len)]
  | .prefixCrc seed len => [.prefixCrc (BitVec.ofNat 16 seed) (BitVec.ofNat 32 len)]
  | .findpfx len target => [.findpfx (BitVec.ofNat 32 len) (BitVec.ofNat 16 target)]
  | .recover len ecrc => [.recover (BitVec.ofNat 32 len) (BitVec.ofNat 16 ecrc)]
  | .fill a bytes => fillCommands a bytes

/-- The assembler: the command words of a line, or none where it refuses the line (R66). -/
def assemble (l : AsmLine) : Option (List U64) :=
  if l.wellFormed then some ((expandLine l).map encode) else none

/-! ### The text of the assembler (R66; what the rule leaves open: log 10) -/

/-- A space, a tab or a carriage return. -/
def isBlank (c : Char) : Bool := c = ' ' || c = '\t' || c = '\r'

/-- A text without the blanks at its two ends. -/
def trimBlanks (cs : List Char) : List Char := ((cs.dropWhile isBlank).reverse.dropWhile isBlank).reverse

/-- The pieces of a text between the occurrences of `c`. -/
def piecesAt (c : Char) : List Char → List (List Char)
  | [] => [[]]
  | d :: ds =>
    if d = c then [] :: piecesAt c ds
    else match piecesAt c ds with
      | [] => [[d]]
      | w :: ws => (d :: w) :: ws

/-- The value of a digit in a base of at most sixteen. -/
def digitValue (base : Nat) (c : Char) : Option Nat :=
  let v :=
    if 48 ≤ c.toNat ∧ c.toNat ≤ 57 then c.toNat - 48
    else if 65 ≤ c.toNat ∧ c.toNat ≤ 70 then c.toNat - 55
    else if 97 ≤ c.toNat ∧ c.toNat ≤ 102 then c.toNat - 87
    else base
  if v < base then some v else none

/-- The number that the digits make, after those that make `acc`. -/
def digitsFrom (base : Nat) : (acc : Nat) → List Char → Option Nat
  | acc, [] => some acc
  | acc, c :: cs =>
    match digitValue base c with
    | some d => digitsFrom base (acc * base + d) cs
    | none => none

/-- The number that some digits make. An underscore between two digits groups them and has no value, as in the
`0xFFFF_FFFF` of V-X17 (95_test_vectors.md; log 10). -/
def readDigits (base : Nat) (cs : List Char) : Option Nat :=
  if (piecesAt '_' cs).any List.isEmpty then none else digitsFrom base 0 (piecesAt '_' cs).flatten

/-- "numbers in decimal or in hexadecimal with `0x`" (R66). -/
def readNumber (cs : List Char) : Option Nat :=
  if cs.take 2 = ['0', 'x'] then readDigits 16 (cs.drop 2) else readDigits 10 cs

/-- Every text of a list read as a number. -/
def readNumbers : List (List Char) → Option (List Nat)
  | [] => some []
  | t :: ts =>
    match readNumber (trimBlanks t), readNumbers ts with
    | some n, some ns => some (n :: ns)
    | _, _ => none

/-- The line that a mnemonic and its numbers stand for: the `Syntax` column of R66, and R67. -/
def lineOf (mnemonic : List Char) (operands : List Nat) : Option AsmLine :=
  match operands with
  | [a] =>
    if mnemonic = ['R', 'D', 'M', 'S', 'G'] then some (.rdmsg a) else none
  | a :: b :: bs =>
    if mnemonic = ['F', 'I', 'L', 'L'] then some (.fill a (b :: bs))
    else if bs ≠ [] then none
    else if mnemonic = ['W', 'R', 'M', 'S', 'G'] then some (.wrmsg a b)
    else if mnemonic = ['C', 'R', 'C', '1', '6'] then some (.crc16 a b)
    else if mnemonic = ['P', 'R', 'E', 'F', 'I', 'X'] then some (.prefixCrc a b)
    else if mnemonic = ['F', 'I', 'N', 'D', 'P', 'F', 'X'] then some (.findpfx a b)
    else if mnemonic = ['R', 'E', 'C', 'O', 'V', 'E', 'R'] then some (.recover a b)
    else none
  | [] => none

/-- One line of source: the mnemonic in capitals, a blank, the operands between commas, and `;` starts a comment (R66). -/
def readLine (cs : List Char) : SourceLine :=
  let body := trimBlanks (cs.takeWhile fun c => c ≠ ';')
  if body.isEmpty then .blank
  else
    match readNumbers (piecesAt ',' (body.dropWhile fun c => !isBlank c)) with
    | none => .malformed
    | some operands =>
      match lineOf (body.takeWhile fun c => !isBlank c) operands with
      | some l => .code l
      | none => .malformed

/-- The words of one line of source, or none where it is refused. -/
def assembleLine (cs : List Char) : Option (List U64) :=
  match readLine cs with
  | .code l => assemble l
  | .blank => some []
  | .malformed => none

/-- The words of some lines, in order, or none where one of them is refused. -/
def assembleLines : List (List Char) → Option (List U64)
  | [] => some []
  | t :: ts =>
    match assembleLine t, assembleLines ts with
    | some ws, some vs => some (ws ++ vs)
    | _, _ => none

/-- The words of a source text, its lines in order (R66). -/
def assembleText (text : List Char) : Option (List U64) := assembleLines (piecesAt '\n' text)

end Sys2Proof
end

