-- ==== Sys2Proof/Machine/CrcTable.lean ====
section
/-! DEFINITION. The CRC table and the selector constants (40_crc_table.md R80 to R83, 10_state.md R29): what reset puts
into `TBL` and `SEL`. -/

namespace Sys2Proof

/-- One shift round (R80): the test is on the bit shifted out of the top. -/
def round1 (r : U16) : U16 :=
  if r.getLsbD 15 then (r <<< 1) ^^^ Config.poly else r <<< 1

/-- `n` rounds from `r`. -/
def roundsFrom : Nat → U16 → U16
  | 0, r => r
  | n + 1, r => roundsFrom n (round1 r)

/-- The table generator (R81): the byte in the top half, then eight rounds. -/
def tblgen (k : Byte) : U16 := roundsFrom Config.rounds (zext16 k <<< 8)

/-- The contents of `TBL` from the end of reset onward (R82): entry `k` is `tblgen k`. -/
def crcTable : Vector U16 256 :=
  ⟨⟨(List.range 256).map fun k => tblgen (BitVec.ofNat 8 k)⟩, by simp⟩

/-- `1 << i`, the selector of basis index `i` (R29). -/
def selBit (i : Fin 16) : U16 := 1#16 <<< i.val

/-- The contents of `SEL`, hardwired (R29). -/
def selTable : Vector U16 16 :=
  ⟨⟨(List.range 16).map fun i => selBit (Fin.ofNat 16 i)⟩, by simp⟩

end Sys2Proof
end

