-- ==== Sys2Proof/Machine/State.lean ====
section
/-! DEFINITION. The state of the block (R20 of 10_state.md), the reasons a step can stop, and the state after reset
(R32, R180). Plain data. -/

namespace Sys2Proof.Machine

/-- Why the machine stops with a fault: never. An error of the frame is a response after which the block goes on (R162,
R165, R166), nothing in the computation can fail (R161), and every command word has a step from every state (R176). -/
inductive Fault where
deriving DecidableEq, Repr

/-- Why a step has no meaning. -/
inductive Refusal where
  /-- Raised by an arm of `exec` whose instruction has no meaning yet: no arm raises it. Safe: the machine would stop
  where the hardware goes on. -/
  | notModelled (mnemonic : String)
deriving DecidableEq, Repr

/-- What the host does to the block next (R174): nothing else can reach it. -/
inductive HostEvent where
  /-- The host presents one command word and waits for the response (R60, R183). -/
  | command (cw : U64)
  /-- The reset event, between commands (R180). -/
  | reset
  /-- The reset event while the command of this word runs: the command is lost whole (R180, R185). -/
  | resetDuring (cw : U64)
deriving DecidableEq, Repr

/-- The written bytes of `MSG`, as (address, byte) pairs. An unlisted address has not been written since reset. -/
abbrev Memory := List Host.Cell

/-- The state. The first eleven fields are R20's table, row by row; the rest are the capacity of the buffer, the model's
own selector of unspecified contents, and the step's input and output, which exec's type leaves no other place for. -/
structure State where
  /-- `TBL`, the CRC table, read-only (R27). -/
  tbl : Vector U16 256
  /-- `SEL`, the bit-selector table, hardwired (R29). -/
  sel : Vector U16 16
  /-- `MSG`, the message buffer: the bytes written since reset (R30). -/
  msg : Memory
  /-- `R`, the CRC register (R21). -/
  r : U16
  /-- `BASIS`, the basis vector set (R28). -/
  basis : Vector U16 16
  /-- `TGT`, the target register (R22). -/
  tgt : U16
  /-- `TV`, the running XOR of basis entries (R23). -/
  tv : U16
  /-- `CAND`, the running XOR of selector entries (R23). -/
  cand : U16
  /-- `IDX`, the byte counter of a fold loop (R24). -/
  idx : U32
  /-- `BI`, the basis index counter (R24). -/
  bi : BitVec 5
  /-- `K`, the Gray-code step counter (R24). -/
  k : BitVec 17
  /-- `MSGCAP`, the capacity of `MSG`: fixed when the block is built, written by nothing (R5). -/
  msgcap : Nat
  /-- The MODEL'S OWN: how many reset events the block has taken; selects the unspecified contents of `MSG` (log 2). -/
  resetCount : Nat
  /-- The host's events still to come, first event first (R9, R174; log 3). -/
  input : List HostEvent
  /-- `RW`, the response word that the latest step gave the host, if it gave one (R61; log 4). -/
  response : Option U32
deriving DecidableEq, Repr

/-- The state after reset of a block built with a buffer of `msgcap` bytes (R32, R180). -/
def State.resetWith (msgcap : Nat) : State where
  tbl := crcTable
  sel := selTable
  msg := []
  r := 0x0000
  basis := Vector.replicate 16 0x0000
  tgt := 0x0000
  tv := 0x0000
  cand := 0x0000
  idx := 0
  bi := 0
  k := 0
  msgcap := msgcap
  resetCount := 0
  input := []
  response := none

/-- The machine right after reset (R32, R180): "No command is pending." -/
def State.reset : State := State.resetWith Config.resetMsgcap

end Sys2Proof.Machine
end

