-- ==== Sys2Proof/Machine/Flags.lean ====
section
/-! DEFINITION. The block's condition information (R25): the status code and the found bit, both fields of the response
word (R61, R69), produced fresh by each command and stored nowhere in the block. -/

namespace Sys2Proof.Machine

/-- The three values of `STATUS` (R69). No other is ever produced (R61). -/
inductive Status where
  /-- The command was executed to its end. -/
  | ok
  /-- The word is illegal by R64. -/
  | illegal
  /-- The word is legal but names a buffer address or length beyond `MSGCAP`. -/
  | range
deriving DecidableEq, Repr

/-- The code of a status (R69). -/
def Status.code : Status → Byte
  | .ok => 0x00
  | .illegal => 0x01
  | .range => 0x02

/-- The found bit as one bit (R61). -/
def foundBit (found : Bool) : BitVec 1 := BitVec.ofBool found

/-- The response word: `STATUS` = `RW[31:24]`, seven zeros, `FOUND` = `RW[16]`, `VALUE` = `RW[15:0]` (R61). -/
def responseWord (status : Status) (found : Bool) (value : U16) : U32 :=
  status.code ++ 0#7 ++ foundBit found ++ value

/-- `STATUS` = `RW[31:24]` (R61). -/
def rwStatus (rw : U32) : Byte := rw.extractLsb' 24 8

/-- `RW[23:17]`, always 0 (R61). -/
def rwZero (rw : U32) : BitVec 7 := rw.extractLsb' 17 7

/-- `FOUND` = `RW[16]` (R61). -/
def rwFound (rw : U32) : Bool := rw.getLsbD 16

/-- `VALUE` = `RW[15:0]` (R61). -/
def rwValue (rw : U32) : U16 := rw.extractLsb' 0 16

/-! ### How a response is written (R66) -/

/-- The four lines of R66: `-> OK value`, `-> OK value FOUND`, `-> ILLEGAL`, `-> RANGE`. -/
inductive ResponseLine where
  | ok (value : U16)
  | okFound (value : U16)
  | illegal
  | range
deriving DecidableEq, Repr

/-- The line of a response word; none for a word that no block produces (R61, R69; 93_implementation_defined.md U10). -/
def responseLine (rw : U32) : Option ResponseLine :=
  if rwZero rw ≠ 0 then none
  else if rwStatus rw = Status.ok.code then some (if rwFound rw then .okFound (rwValue rw) else .ok (rwValue rw))
  else if rwFound rw || rwValue rw ≠ 0x0000 then none
  else if rwStatus rw = Status.illegal.code then some .illegal
  else if rwStatus rw = Status.range.code then some .range
  else none

/-- One hexadecimal digit, a capital above 9. -/
def hexDigit (d : BitVec 4) : Char := Char.ofNat (if d.toNat < 10 then 48 + d.toNat else 55 + d.toNat)

/-- A value as 95_test_vectors.md writes it: `0x` and four digits. -/
def hexText (v : U16) : List Char :=
  ['0', 'x', hexDigit (v.extractLsb' 12 4), hexDigit (v.extractLsb' 8 4), hexDigit (v.extractLsb' 4 4),
    hexDigit (v.extractLsb' 0 4)]

/-- The text of a response line (R66). -/
def ResponseLine.text : ResponseLine → List Char
  | .ok v => ['-', '>', ' ', 'O', 'K', ' '] ++ hexText v
  | .okFound v => ['-', '>', ' ', 'O', 'K', ' '] ++ hexText v ++ [' ', 'F', 'O', 'U', 'N', 'D']
  | .illegal => ['-', '>', ' ', 'I', 'L', 'L', 'E', 'G', 'A', 'L']
  | .range => ['-', '>', ' ', 'R', 'A', 'N', 'G', 'E']

end Sys2Proof.Machine
end

