-- ==== Sys2Proof/Machine/Ops.lean ====
section
/-! DEFINITION. The named operations over memory, registers and the host interface. Every read and write of a register
file or of `MSG` goes through one of these; both ways a command ends (`respond`, `raise`) stand here once (R7). -/

namespace Sys2Proof.Machine

/-! ### The message buffer (R40, R41) -/

/-- The byte written last at `a` since reset, if one was. -/
def Memory.find : Memory → Nat → Option Byte
  | [], _ => none
  | (b, v) :: m, a => if b = a then some v else Memory.find m a

/-- Write `v` at `a`, keeping the addresses rising. -/
def Memory.put : Memory → Nat → Byte → Memory
  | [], a, v => [(a, v)]
  | (b, w) :: m, a, v =>
    if a < b then (a, v) :: (b, w) :: m
    else if a = b then (a, v) :: m
    else (b, w) :: Memory.put m a v

/-- The canonical form of `MSG`: addresses strictly rising. (An unlisted address holds no value as data, so no entry can
equal what an unlisted address reads as.) -/
abbrev Memory.wf (m : Memory) : Prop := m.Pairwise fun c d => c.1 < d.1

/-- What `MSG[a]` reads as: the byte written last, or the unspecified content of a byte never written (R32, R49, log 2).
The one definition of what an unlisted address reads as. -/
def State.memByte (s : State) (a : Nat) : Byte :=
  (s.msg.find a).getD (Config.unwrittenByte s.resetCount a)

/-- `MemRead(a, 1)` (R41): returns `MSG[a]` and changes nothing. -/
def State.memRead (s : State) (a : U32) : Byte := s.memByte a.toNat

/-- `MemWrite(a, 1, v)` (R41): `MSG[a] <- v` and nothing else. -/
def State.memWrite (s : State) (a : U32) (v : Byte) : State := { s with msg := s.msg.put a.toNat v }

/-- The message `[MSG[0], ..., MSG[L-1]]`: byte `j` of the sequence is `MSG[j]` (R42, R102). -/
def State.message (s : State) (len : Nat) : List Byte := (List.range len).map s.memByte

/-- `a` names no byte of the buffer (R48, R162). -/
def State.beyondBuffer (s : State) (a : U32) : Bool := decide (s.msgcap ≤ a.toNat)

/-- `L` is more bytes than the buffer has (R162); `L = MSGCAP` is legal (R92). -/
def State.longerThanBuffer (s : State) (len : U32) : Bool := decide (s.msgcap < len.toNat)

/-! ### The register files (R27 to R29) -/

/-- `TBL[k]`. -/
def State.tblRead (s : State) (k : Byte) : U16 := s.tbl.get k.toFin

/-- `SEL[i]`. -/
def State.selRead (s : State) (i : Fin 16) : U16 := s.sel.get i

/-- `BASIS[i]`. -/
def State.basisRead (s : State) (i : Fin 16) : U16 := s.basis.get i

/-- `BASIS[i] <- v`. -/
def State.basisWrite (s : State) (i : Fin 16) (v : U16) : State := { s with basis := s.basis.set i v }

/-! ### How a command ends (R7: "Every command ends in exactly one `respond` or one `raise`") -/

/-- `respond(status, found, value)` (R7, R61). -/
def State.respond (s : State) (status : Status) (found : Bool) (value : U16) : State :=
  { s with response := some (responseWord status found value) }

/-- The two errors of the frame (R162). -/
inductive FrameError where
  /-- `Illegal`: the command word matches no row of R63. -/
  | illegal
  /-- `Range`: an address or a length beyond `MSGCAP`. -/
  | range
deriving DecidableEq, Repr

/-- The status code that tells the host of an error (R162). -/
def FrameError.status : FrameError → Status
  | .illegal => .illegal
  | .range => .range

/-- TAKING AN EXCEPTION: `raise <Error>(CW)` (R7, R162). The command ends at once with the error's response, found bit and
value 0, and no state changes. There is no handler, nothing is saved and the mode does not change (R165); nothing has to
return from it, because the next command runs as it would any other (R166). -/
def State.raise (s : State) (e : FrameError) : Host.Outcome State Fault Refusal :=
  .next (s.respond e.status false 0x0000)

/-! ### The host interface (R174) -/

/-- The block takes the host's next event off its list. -/
def State.takeEvent (s : State) (rest : List HostEvent) : State := { s with input := rest }

/-- The host sends nothing: the block holds its state and waits (R173, R180), and gives no response (log 5). -/
def State.wait (s : State) : State := { s with response := none }

/-- The reset event (R180, R185): every piece of state at its value of R32, `MSG` unspecified anew, no response. What the
block was built with (`MSGCAP`) and what the host sends next are not the block's state and stay. A command cut short is
lost whole, so the event is the same while one runs (log 6). -/
def State.takeReset (s : State) : State :=
  { State.resetWith s.msgcap with resetCount := s.resetCount + 1, input := s.input }

end Sys2Proof.Machine
end

