-- ==== Sys2Proof/Machine/Buffer.lean ====
section
/-! DEFINITION. Message buffer access (44_buffer_access.md): the commands WRMSG and RDMSG. One addressing mode, absolute
(R147). -/

namespace Sys2Proof.Machine

/-- `WRMSG a, byte` (R145). -/
def execWrmsg (a : U32) (byte : Byte) (s : State) : Host.Outcome State Fault Refusal :=
  if s.beyondBuffer a then s.raise .range
  else .next ((s.memWrite a byte).respond .ok false 0x0000)

/-- `RDMSG a` (R146): the byte zero-extended. -/
def execRdmsg (a : U32) (s : State) : Host.Outcome State Fault Refusal :=
  if s.beyondBuffer a then s.raise .range
  else .next (s.respond .ok false (zext16 (s.memRead a)))

end Sys2Proof.Machine
end

