-- ==== Sys2Proof/Machine/CrcEngine.lean ====
section
/-! DEFINITION. The CRC engine (41_crc_engine.md): the fold loop in the registers `R` and `IDX`, and the commands CRC16
and PREFIX. -/

namespace Sys2Proof.Machine

/-- Where a fold loop takes its bytes from (R102): the buffer, in rising order, or the literal zero byte (R93). -/
inductive ByteSource where
  | buffer
  | zeros
deriving DecidableEq, Repr

/-- The byte that the next pass of a fold loop folds in: `MemRead(IDX, 1)`, or 0x00. -/
def State.nextByte (s : State) : ByteSource → Byte
  | .buffer => s.memRead s.idx
  | .zeros => 0x00

/-- The per-byte step over the block's own `TBL` (R90). -/
def State.stepByte (s : State) (r : U16) (b : Byte) : U16 := s.tblRead (hiByte r ^^^ b) ^^^ (r <<< 8)

/-- One pass of a fold loop: `R <- bytestep(R, b)`, `IDX <- IDX + 1` (R92, R94, R111). -/
def foldBody (src : ByteSource) (s : State) : State :=
  { s with r := s.stepByte s.r (s.nextByte src), idx := s.idx + 1 }

/-- `while IDX < L`: at most `fuel` passes. -/
def foldLoop (src : ByteSource) (len : U32) : (fuel : Nat) → State → State
  | 0, s => s
  | n + 1, s => if s.idx < len then foldLoop src len n (foldBody src s) else s

/-- `R <- seed; IDX <- 0` (R92, R94, R111, R136). -/
def foldStart (seed : U16) (s : State) : State := { s with r := seed, idx := 0 }

/-- A whole fold: the start, and the loop to `IDX = L`. `L` passes always suffice (R184; log 8). -/
def fold (src : ByteSource) (seed : U16) (len : U32) (s : State) : State :=
  foldLoop src len len.toNat (foldStart seed s)

/-- `respond(OK, 0, R)` (R92, R94). -/
def respondR (s : State) : State := s.respond .ok false s.r

/-- `CRC16 seed, L` (R92). -/
def execCrc16 (seed : U16) (len : U32) (s : State) : Host.Outcome State Fault Refusal :=
  if s.longerThanBuffer len then s.raise .range
  else .next (respondR (fold .buffer seed len s))

/-- `PREFIX seed, L` (R94): no range check, no read of `MSG`. -/
def execPrefixCrc (seed : U16) (len : U32) (s : State) : Host.Outcome State Fault Refusal :=
  .next (respondR (fold .zeros seed len s))

end Sys2Proof.Machine
end

