-- ==== Sys2Proof/Machine/Functions.lean ====
section
/-! DEFINITION. The pure functions that the rules name (R8) and the closed forms they are compared with (R6, R95, R98,
R114, R120, R135). The machine computes them in registers, loop by loop; that it computes these values is proved, not
assumed. -/

namespace Sys2Proof

/-! ### The CRC engine (41_crc_engine.md) -/

/-- The per-byte step (R90). -/
def bytestep (r : U16) (b : Byte) : U16 := crcTable.get (hiByte r ^^^ b).toFin ^^^ (r <<< 8)

/-- The fold (R91). -/
def crc16 (seed : U16) : List Byte → U16
  | [] => seed
  | b :: bs => crc16 (bytestep seed b) bs

/-- The document's `prefix` (R93): `L` steps with a literal zero byte. -/
def prefixfn (seed : U16) : Nat → U16
  | 0 => seed
  | n + 1 => prefixfn (bytestep seed 0x00) n

/-- The bit-by-bit reference (R95): the yardstick a model's `crc16` is held to. -/
def crcBitwise (seed : U16) : List Byte → U16
  | [] => seed
  | b :: bs => crcBitwise (roundsFrom Config.rounds (seed ^^^ (zext16 b <<< 8))) bs

/-- The inverse of a round (R98 part (a)). -/
def round1Inv (y : U16) : U16 :=
  if y.getLsbD 0 then ((y ^^^ Config.poly) >>> 1) ||| 0x8000 else y >>> 1

/-! ### The GF(2) basis solver (42_basis_solver.md) -/

/-- The index of the lowest set bit (R6). -/
def ctz (k : BitVec 17) : Nat := ((List.range 17).find? fun i => k.getLsbD i).getD 17

/-- Which index toggles at step `k` of the search, for `1 <= k <= 65536` (R114). -/
def toggle (k : BitVec 17) : Fin 16 := if k = 65536#17 then 15 else Fin.ofNat 16 (ctz k)

/-- The binary-reflected Gray code (R6). -/
def gray (n : U16) : U16 := n ^^^ (n >>> 1)

/-- The inverse of `gray` (R120): the XOR of `P >> j` over `j` = 0 to 15. -/
def grayInv (p : U16) : U16 := (List.range 16).foldl (fun acc j => acc ^^^ (p >>> j)) 0

/-- The XOR of `f i` over the set bits `i` of a mask: of the subset of {0..15} that the mask stands for (R96, R116). -/
def xorOver (f : Fin 16 → U16) (mask : U16) : U16 :=
  (List.finRange 16).foldl (fun acc i => if mask.getLsbD i.val then acc ^^^ f i else acc) 0

/-- The step at which the search for a target with solution `p` stops (R120). -/
def stepOf (p : U16) : BitVec 17 := if p = 0x0000 then 65536#17 else (grayInv p).setWidth 17

/-- What the solver returns: the document's value and the explicit flag (R110). -/
structure Solution where
  value : U16
  found : Bool
deriving DecidableEq, Repr

/-- The candidate after step `k`, read as a seed: `gray(k mod 65536)` (R114, R116). -/
def candidate (k : Nat) : U16 := gray (BitVec.ofNat 16 k)

/-- `find_prefix(L, T)` (R115) as a plain search: the first candidate, in the order of R114, whose prefix-function value
is the target (R116: "the test `TV = TGT` at step `k` is the test `prefixfn(gray(k mod 65536), L) = target`"), or the
sentinel. The machine's incremental search is held to it. -/
def findPrefix (len : Nat) (target : U16) : Solution :=
  match (List.range Config.nstep).find? (fun j => prefixfn (candidate (j + 1)) len = target) with
  | some j => ⟨candidate (j + 1), true⟩
  | none => ⟨Config.sentinel, false⟩

/-- `basis[i] = prefix(1 << i, length)` for every `i` (R111, R28). -/
def basisTable (len : Nat) : Vector U16 16 :=
  ⟨⟨(List.range 16).map fun i => prefixfn (selBit (Fin.ofNat 16 i)) len⟩, by simp⟩

/-! ### The prefix recovery unit (43_prefix_recovery.md) -/

/-- The recovery flow (R135): the zero-seeded CRC of the body, XOR the embedded checksum, to the solver. -/
def recoverPrefix (body : List Byte) (ecrc : U16) : Solution :=
  findPrefix body.length (crc16 0x0000 body ^^^ ecrc)

end Sys2Proof
end

