-- ==== Sys2Proof/Machine/Solver.lean ====
section
/-! DEFINITION. The GF(2) basis solver (42_basis_solver.md): the basis loop, the Gray-code search and the command
FINDPFX. -/

namespace Sys2Proof.Machine

/-- The low four bits of `BI`: the basis index that the pass builds, since a pass runs only while `BI < 16` (R111). -/
def State.basisIndex (s : State) : Fin 16 := (s.bi.setWidth 4).toFin

/-- `BASIS[i] <- R; BI <- BI + 1` (R111). -/
def storeBasis (i : Fin 16) (s : State) : State := { s.basisWrite i s.r with bi := s.bi + 1 }

/-- One pass of the basis loop (R111): fold `L` zero bytes from `SEL[BI]`, and store the result. -/
def basisBody (len : U32) (s : State) : State :=
  storeBasis s.basisIndex (fold .zeros (s.selRead s.basisIndex) len s)

/-- `while BI < 16`: at most `fuel` passes. -/
def basisLoop (len : U32) : (fuel : Nat) → State → State
  | 0, s => s
  | n + 1, s => if s.bi < 16#5 then basisLoop len n (basisBody len s) else s

/-- `BI <- 0` (R111). -/
def basisStart (s : State) : State := { s with bi := 0 }

/-- Phase 1, `build_basis(L)` (R111). -/
def buildBasis (len : U32) (s : State) : State := basisLoop len Config.nb (basisStart s)

/-- One Gray-code step (R113): `K <- K + 1`, one index toggles, both accumulators follow. -/
def searchBody (s : State) : State :=
  { s with
    k := s.k + 1
    tv := s.tv ^^^ s.basisRead (toggle (s.k + 1))
    cand := s.cand ^^^ s.selRead (toggle (s.k + 1)) }

/-- `while K < 65536`: a step, then the comparison, which ends the search on a match; the sentinel when the steps are
spent (R113). At most `fuel` steps. -/
def searchLoop : (fuel : Nat) → State → State × Solution
  | 0, s => (s, ⟨Config.sentinel, false⟩)
  | n + 1, s =>
    if s.k < 65536#17 then
      let t := searchBody s
      if t.tv = t.tgt then (t, ⟨t.cand, true⟩) else searchLoop n t
    else (s, ⟨Config.sentinel, false⟩)

/-- The empty subset, with which the search starts: `TGT <- T; TV <- 0; CAND <- 0; K <- 0` (R113). -/
def searchStart (target : U16) (s : State) : State :=
  { s with tgt := target, tv := 0x0000, cand := 0x0000, k := 0 }

/-- Phase 2, `search(T)` (R113). -/
def search (target : U16) (s : State) : State × Solution := searchLoop Config.nstep (searchStart target s)

/-- `find_prefix(L, T)` in the block's registers (R115). -/
def solve (len : U32) (target : U16) (s : State) : State × Solution := search target (buildBasis len s)

/-- `respond(OK, found, value)` (R115, R136). -/
def respondSolution (p : State × Solution) : State := p.1.respond .ok p.2.found p.2.value

/-- `FINDPFX L, target` (R115). The sentinel is an `OK` response with found bit 0 (R69, R160). -/
def execFindpfx (len : U32) (target : U16) (s : State) : Host.Outcome State Fault Refusal :=
  .next (respondSolution (solve len target s))

end Sys2Proof.Machine
end

