-- ==== Sys2Proof/Machine/Recovery.lean ====
section
/-! DEFINITION. The prefix recovery unit (43_prefix_recovery.md): the command RECOVER, a sequence over the engine and the
solver with one XOR of its own (R140). -/

namespace Sys2Proof.Machine

/-- `TGT <- R XOR ecrc` (R136). -/
def loadDelta (ecrc : U16) (s : State) : State := { s with tgt := s.r ^^^ ecrc }

/-- `search` from the `TGT` that stands in the state (R136). -/
def searchTgt (s : State) : State × Solution := search s.tgt s

/-- Phase 0 (R136): the zero-seeded CRC of the body, and `TGT <- R XOR ecrc` at its end. -/
def recoverDelta (len : U32) (ecrc : U16) (s : State) : State :=
  loadDelta ecrc (fold .buffer 0x0000 len s)

/-- All three phases (R136): the basis phase reuses `R` and `IDX`, and the search starts from the `TGT` that phase 0
left. -/
def recoverRun (len : U32) (ecrc : U16) (s : State) : State × Solution :=
  searchTgt (buildBasis len (recoverDelta len ecrc s))

/-- `RECOVER L, ecrc` (R136). -/
def execRecover (len : U32) (ecrc : U16) (s : State) : Host.Outcome State Fault Refusal :=
  if s.longerThanBuffer len then s.raise .range
  else .next (respondSolution (recoverRun len ecrc s))

end Sys2Proof.Machine
end

