-- ==== Sys2Proof/Machine/Dispatch.lean ====
section
/-! DEFINITION. What each command does: one arm per constructor of `Instr`, one meaning per arm (R63, last columns). -/

namespace Sys2Proof.Machine

def exec (i : Instr) (s : State) : Host.Outcome State Fault Refusal :=
  match i with
  | .wrmsg a byte => Sys2Proof.Machine.execWrmsg a byte s
  | .rdmsg a => Sys2Proof.Machine.execRdmsg a s
  | .crc16 seed len => Sys2Proof.Machine.execCrc16 seed len s
  | .prefixCrc seed len => Sys2Proof.Machine.execPrefixCrc seed len s
  | .findpfx len target => Sys2Proof.Machine.execFindpfx len target s
  | .recover len ecrc => Sys2Proof.Machine.execRecover len ecrc s

end Sys2Proof.Machine
end

