-- ==== Sys2Proof/Machine/Step.lean ====
section
/-! DEFINITION. One step of the block (R72): it takes the host's next event and answers the new state, the response word
in it. A command is one step, whatever its length (R72, R186). -/

namespace Sys2Proof.Machine

/-- A command word is decoded and executed, or refused with `Illegal` (R64, R65, R72); a reset event resets (R180, R185);
with no event the block waits. -/
def step (s : State) : Host.Outcome State Fault Refusal :=
  match s.input with
  | [] => .next s.wait
  | .command cw :: rest =>
    match decode cw with
    | .command i => exec i (s.takeEvent rest)
    | .illegal _ => (s.takeEvent rest).raise .illegal
  | .reset :: rest => .next (s.takeEvent rest).takeReset
  | .resetDuring _ :: rest => .next (s.takeEvent rest).takeReset

/-- `s` with the command word of the table's bits `w` as the host's next event, ahead of those that stand there (log 3). -/
def State.withFetchWord (s : State) (nbits w : Nat) : State :=
  { s with input := .command (tableWord nbits w) :: s.input }

end Sys2Proof.Machine
end

