-- ==== Sys2Proof/Safety.lean ====
section
/-! DEFINITION. The terms that claims use: the invariant of the block, and what the host owes it (R49, R182). -/

namespace Sys2Proof.Machine

/-! ### The invariant -/

/-- `TBL` holds the table of R82 and `SEL` its hardwired constants (R27, R29, R83). -/
abbrev State.tablesOk (s : State) : Prop := s.tbl = crcTable ∧ s.sel = selTable

/-- Every written byte of `MSG` lies below `MSGCAP` (R41, R48). -/
abbrev State.msgInBuffer (s : State) : Prop := ∀ c ∈ s.msg, c.1 < s.msgcap

/-- A response word that R61 allows: a status of R69, bits 23 to 17 zero, and found bit and value zero in every error
response. -/
abbrev rwLegal (rw : U32) : Prop :=
  rwZero rw = 0 ∧
    (rwStatus rw = Status.ok.code ∨
      ((rwStatus rw = Status.illegal.code ∨ rwStatus rw = Status.range.code) ∧ rwFound rw = false ∧ rwValue rw = 0x0000))

/-- What holds of the block at reset and after every step. -/
structure State.Inv (s : State) : Prop where
  /-- The read-only tables hold their constants (R27, R29). -/
  tables : s.tablesOk
  /-- `MSG` keeps its canonical form. -/
  msgWf : s.msg.wf
  /-- No byte lies outside the buffer (R41). -/
  msgIn : s.msgInBuffer
  /-- The capacity is one that a block can be built with (R5). -/
  cap : s.msgcap ≤ Config.msgcapMax
  /-- `BI` is 0 to 16 (R20, R24). -/
  biLe : s.bi ≤ 16#5
  /-- `K` is 0 to 65536 (R20, R24). -/
  kLe : s.k ≤ 65536#17
  /-- The response, if there is one, is a word that R61 allows. -/
  rwOk : ∀ rw, s.response = some rw → rwLegal rw

/-! ### What the host owes (R182): write every byte before a command reads it -/

/-- `MSG[a]` has been written since reset. -/
def State.written (s : State) (a : Nat) : Bool := (s.msg.find a).isSome

/-- The command reads no byte of `MSG` that nothing has written since reset. R49 has a model give no meaning to the other
reads; this model gives them the free value of log 2, and a claim that wants R49's discipline takes this as a premise. -/
def readsOnlyWritten : Instr → State → Bool
  | .wrmsg _ _, _ => true
  | .rdmsg a, s => s.beyondBuffer a || s.written a.toNat
  | .crc16 _ len, s => s.longerThanBuffer len || (List.range len.toNat).all s.written
  | .prefixCrc _ _, _ => true
  | .findpfx _ _, _ => true
  | .recover len _, s => s.longerThanBuffer len || (List.range len.toNat).all s.written

/-- The next step keeps to R182. -/
def safeStep (s : State) : Bool :=
  match s.input with
  | .command cw :: rest =>
    match decode cw with
    | .command i => readsOnlyWritten i (s.takeEvent rest)
    | .illegal _ => true
  | _ => true

/-! ### Where a command stores -/

/-- The address that a command stores to, if it stores: the operand of a WRMSG that passes its range check (R145, R147). -/
def storeAddress : Instr → State → Option Nat
  | .wrmsg a _, s => if s.beyondBuffer a then none else some a.toNat
  | .rdmsg _, _ => none
  | .crc16 _ _, _ => none
  | .prefixCrc _ _, _ => none
  | .findpfx _ _, _ => none
  | .recover _ _, _ => none

/-- The command names a buffer address or a buffer length beyond `MSGCAP` (R162). PREFIX and FINDPFX never do. -/
def outOfRange : Instr → State → Bool
  | .wrmsg a _, s => s.beyondBuffer a
  | .rdmsg a, s => s.beyondBuffer a
  | .crc16 _ len, s => s.longerThanBuffer len
  | .prefixCrc _ _, _ => false
  | .findpfx _ _, _ => false
  | .recover len _, s => s.longerThanBuffer len

/-! ### What the host can see (R31, R174) -/

/-- Two states that no host can tell apart: they agree on everything that carries meaning from one command to the next
(R31), and on what the block was built with and is sent. They may differ in every working register. -/
structure SameVisible (s t : State) : Prop where
  tbl : s.tbl = t.tbl
  sel : s.sel = t.sel
  msg : s.msg = t.msg
  msgcap : s.msgcap = t.msgcap
  resetCount : s.resetCount = t.resetCount
  input : s.input = t.input

end Sys2Proof.Machine
end

