-- ==== Sys2Proof/Certificates/Slice0/Obligations.lean ====
section
/-! DEFINITION. The statements for the provers, in the order of OBLIGATIONS.json, after the two listings of the spec that
they compare the model with. -/

open Sys2Proof Sys2Proof.Machine

/-- The 256 values that R82 lists, row by row. -/
def Sys2Proof.listingOfR82 : List U16 :=
  [0x0000, 0x1021, 0x2042, 0x3063, 0x4084, 0x50A5, 0x60C6, 0x70E7, 0x8108, 0x9129, 0xA14A, 0xB16B, 0xC18C, 0xD1AD, 0xE1CE, 0xF1EF] ++
  [0x1231, 0x0210, 0x3273, 0x2252, 0x52B5, 0x4294, 0x72F7, 0x62D6, 0x9339, 0x8318, 0xB37B, 0xA35A, 0xD3BD, 0xC39C, 0xF3FF, 0xE3DE] ++
  [0x2462, 0x3443, 0x0420, 0x1401, 0x64E6, 0x74C7, 0x44A4, 0x5485, 0xA56A, 0xB54B, 0x8528, 0x9509, 0xE5EE, 0xF5CF, 0xC5AC, 0xD58D] ++
  [0x3653, 0x2672, 0x1611, 0x0630, 0x76D7, 0x66F6, 0x5695, 0x46B4, 0xB75B, 0xA77A, 0x9719, 0x8738, 0xF7DF, 0xE7FE, 0xD79D, 0xC7BC] ++
  [0x48C4, 0x58E5, 0x6886, 0x78A7, 0x0840, 0x1861, 0x2802, 0x3823, 0xC9CC, 0xD9ED, 0xE98E, 0xF9AF, 0x8948, 0x9969, 0xA90A, 0xB92B] ++
  [0x5AF5, 0x4AD4, 0x7AB7, 0x6A96, 0x1A71, 0x0A50, 0x3A33, 0x2A12, 0xDBFD, 0xCBDC, 0xFBBF, 0xEB9E, 0x9B79, 0x8B58, 0xBB3B, 0xAB1A] ++
  [0x6CA6, 0x7C87, 0x4CE4, 0x5CC5, 0x2C22, 0x3C03, 0x0C60, 0x1C41, 0xEDAE, 0xFD8F, 0xCDEC, 0xDDCD, 0xAD2A, 0xBD0B, 0x8D68, 0x9D49] ++
  [0x7E97, 0x6EB6, 0x5ED5, 0x4EF4, 0x3E13, 0x2E32, 0x1E51, 0x0E70, 0xFF9F, 0xEFBE, 0xDFDD, 0xCFFC, 0xBF1B, 0xAF3A, 0x9F59, 0x8F78] ++
  [0x9188, 0x81A9, 0xB1CA, 0xA1EB, 0xD10C, 0xC12D, 0xF14E, 0xE16F, 0x1080, 0x00A1, 0x30C2, 0x20E3, 0x5004, 0x4025, 0x7046, 0x6067] ++
  [0x83B9, 0x9398, 0xA3FB, 0xB3DA, 0xC33D, 0xD31C, 0xE37F, 0xF35E, 0x02B1, 0x1290, 0x22F3, 0x32D2, 0x4235, 0x5214, 0x6277, 0x7256] ++
  [0xB5EA, 0xA5CB, 0x95A8, 0x8589, 0xF56E, 0xE54F, 0xD52C, 0xC50D, 0x34E2, 0x24C3, 0x14A0, 0x0481, 0x7466, 0x6447, 0x5424, 0x4405] ++
  [0xA7DB, 0xB7FA, 0x8799, 0x97B8, 0xE75F, 0xF77E, 0xC71D, 0xD73C, 0x26D3, 0x36F2, 0x0691, 0x16B0, 0x6657, 0x7676, 0x4615, 0x5634] ++
  [0xD94C, 0xC96D, 0xF90E, 0xE92F, 0x99C8, 0x89E9, 0xB98A, 0xA9AB, 0x5844, 0x4865, 0x7806, 0x6827, 0x18C0, 0x08E1, 0x3882, 0x28A3] ++
  [0xCB7D, 0xDB5C, 0xEB3F, 0xFB1E, 0x8BF9, 0x9BD8, 0xABBB, 0xBB9A, 0x4A75, 0x5A54, 0x6A37, 0x7A16, 0x0AF1, 0x1AD0, 0x2AB3, 0x3A92] ++
  [0xFD2E, 0xED0F, 0xDD6C, 0xCD4D, 0xBDAA, 0xAD8B, 0x9DE8, 0x8DC9, 0x7C26, 0x6C07, 0x5C64, 0x4C45, 0x3CA2, 0x2C83, 0x1CE0, 0x0CC1] ++
  [0xEF1F, 0xFF3E, 0xCF5D, 0xDF7C, 0xAF9B, 0xBFBA, 0x8FD9, 0x9FF8, 0x6E17, 0x7E36, 0x4E55, 0x5E74, 0x2E93, 0x3EB2, 0x0ED1, 0x1EF0]

/-- The five rows that R112 lists: `BASIS[0]` to `BASIS[15]` for `L` = 0 to 4. -/
def Sys2Proof.rowsOfR112 : List (List U16) :=
  [[0x0001, 0x0002, 0x0004, 0x0008, 0x0010, 0x0020, 0x0040, 0x0080, 0x0100, 0x0200, 0x0400, 0x0800, 0x1000, 0x2000, 0x4000, 0x8000],
   [0x0100, 0x0200, 0x0400, 0x0800, 0x1000, 0x2000, 0x4000, 0x8000, 0x1021, 0x2042, 0x4084, 0x8108, 0x1231, 0x2462, 0x48C4, 0x9188],
   [0x1021, 0x2042, 0x4084, 0x8108, 0x1231, 0x2462, 0x48C4, 0x9188, 0x3331, 0x6662, 0xCCC4, 0x89A9, 0x0373, 0x06E6, 0x0DCC, 0x1B98],
   [0x3331, 0x6662, 0xCCC4, 0x89A9, 0x0373, 0x06E6, 0x0DCC, 0x1B98, 0x3730, 0x6E60, 0xDCC0, 0xA9A1, 0x4363, 0x86C6, 0x1DAD, 0x3B5A],
   [0x3730, 0x6E60, 0xDCC0, 0xA9A1, 0x4363, 0x86C6, 0x1DAD, 0x3B5A, 0x76B4, 0xED68, 0xCAF1, 0x85C3, 0x1BA7, 0x374E, 0x6E9C, 0xDD38]]

/-- A command word is the number its four fields make, and the fields are the slices of R60. [R60] -/
def Obligations.CommandWordIsItsFields : Prop :=
  ∀ cw : U64,
    cw.toNat = (cwOp cw).toNat * 2 ^ 56 + (cwRsv cw).toNat * 2 ^ 48 + (cwArg cw).toNat * 2 ^ 32 + (cwLen cw).toNat ∧
      (cwOp cw).toNat = cw.toNat / 2 ^ 56 ∧
      (cwRsv cw).toNat = cw.toNat / 2 ^ 48 % 2 ^ 8 ∧
      (cwArg cw).toNat = cw.toNat / 2 ^ 32 % 2 ^ 16 ∧
      (cwLen cw).toNat = cw.toNat % 2 ^ 32

/-- Decoding inverts encoding and encoding inverts decoding, for all six commands. [R65] -/
def Obligations.DecodeAndEncodeAgree : Prop :=
  (∀ c : Instr, decode (encode c) = .command c) ∧
    (∀ (cw : U64) (c : Instr), decode cw = .command c → encode c = cw) ∧
    (∀ cw : U64, (∃ e, decode cw = .illegal e) ↔ ¬ ∃ c, encode c = cw) ∧
    (∀ a byte, (encode (.wrmsg a byte)).toNat = 0x01 * 2 ^ 56 + byte.toNat * 2 ^ 32 + a.toNat) ∧
    (∀ a, (encode (.rdmsg a)).toNat = 0x02 * 2 ^ 56 + a.toNat) ∧
    (∀ seed len, (encode (.crc16 seed len)).toNat = 0x10 * 2 ^ 56 + seed.toNat * 2 ^ 32 + len.toNat) ∧
    (∀ seed len, (encode (.prefixCrc seed len)).toNat = 0x11 * 2 ^ 56 + seed.toNat * 2 ^ 32 + len.toNat) ∧
    (∀ len target, (encode (.findpfx len target)).toNat = 0x20 * 2 ^ 56 + target.toNat * 2 ^ 32 + len.toNat) ∧
    (∀ len ecrc, (encode (.recover len ecrc)).toNat = 0x21 * 2 ^ 56 + ecrc.toNat * 2 ^ 32 + len.toNat)

/-- A word decodes to a row's command exactly when its masked bits are the row's match value. [30_encoding.md section
3 (R63, the match and mask columns)] -/
def Obligations.OpcodeRowsDecideTheCommand : Prop :=
  ∀ (cw : U64) (j : Instr),
    cw &&& rowMask j = rowMatch j ↔ ∃ i, decode cw = .command i ∧ rowMatch i = rowMatch j

/-- Exactly the words of R64 are refused as illegal, whatever the buffer, with the ILLEGAL response and no change of
state. [R64, R164] -/
def Obligations.IllegalWordsAreExactlyThese : Prop :=
  ∀ (s : State) (cw : U64) (rest : List HostEvent), s.input = .command cw :: rest →
    ((cwOp cw ∉ ([0x01, 0x02, 0x10, 0x11, 0x20, 0x21] : List Byte) ∨ cwRsv cw ≠ 0x00 ∨
        (cwOp cw = 0x01 ∧ cwArgHi cw ≠ 0x00) ∨ (cwOp cw = 0x02 ∧ cwArg cw ≠ 0x0000)) →
      step s = .next { s with input := rest, response := some 0x01000000 }) ∧
    (¬ (cwOp cw ∉ ([0x01, 0x02, 0x10, 0x11, 0x20, 0x21] : List Byte) ∨ cwRsv cw ≠ 0x00 ∨
        (cwOp cw = 0x01 ∧ cwArgHi cw ≠ 0x00) ∨ (cwOp cw = 0x02 ∧ cwArg cw ≠ 0x0000)) →
      ∃ t rw, step s = .next t ∧ t.response = some rw ∧ rwStatus rw ≠ Status.illegal.code)

/-- The six worked encodings of R70 decode to their commands, and the worked responses are the words R70 gives. [R70]
-/
def Obligations.WorkedEncodingsDecode : Prop :=
  decode 0x0100001200000000 = .command (.wrmsg 0 0x12) ∧
    decode 0x0200000000000001 = .command (.rdmsg 1) ∧
    decode 0x1000FFFF00000009 = .command (.crc16 0xFFFF 9) ∧
    decode 0x1100000100000001 = .command (.prefixCrc 0x0001 1) ∧
    decode 0x2000ABCD00000000 = .command (.findpfx 0 0xABCD) ∧
    decode 0x21000EC900000002 = .command (.recover 2 0x0EC9) ∧
    responseWord .ok false 0x31C3 = 0x000031C3 ∧ responseWord .ok true 0xABCD = 0x0001ABCD ∧
    responseWord .ok false 0x0000 = 0x00000000 ∧ responseWord .illegal false 0x0000 = 0x01000000 ∧
    responseWord .range false 0x0000 = 0x02000000

/-- Every command word is answered by one response word of the shape R61 gives. In the clause on TV = TGT: what the
working registers hold after the command is the MODEL'S CHOICE (log 7): R31 lets a block keep other values.
[30_encoding.md section 1 (R61), 42_basis_solver.md section 3 (R113), notes/assumptions/7.md (log 7)] -/
def Obligations.EveryCommandGetsOneLegalResponse : Prop :=
  (∀ st f v, (responseWord st f v).toNat = st.code.toNat * 2 ^ 24 + f.toNat * 2 ^ 16 + v.toNat) ∧
    ∀ (s : State) (cw : U64) (rest : List HostEvent), s.input = .command cw :: rest →
      ∃ t rw, step s = .next t ∧ t.response = some rw ∧
        (rwStatus rw = 0x00 ∨ rwStatus rw = 0x01 ∨ rwStatus rw = 0x02) ∧ rwZero rw = 0 ∧
        (rwStatus rw ≠ 0x00 → rwFound rw = false ∧ rwValue rw = 0x0000) ∧
        (rwFound rw = true →
          (∃ len v, decode cw = .command (.findpfx len v) ∨ decode cw = .command (.recover len v)) ∧
            rwStatus rw = 0x00 ∧ t.tv = t.tgt)

/-- A step takes the host's next command word and runs the command it decodes to. [30_encoding.md section 9 (R72)] -/
def Obligations.StepRunsDecodedCommand : Prop :=
  ∀ (s : State) (cw : U64) (rest : List HostEvent) (i : Instr),
    s.input = .command cw :: rest → decode cw = .command i → step s = exec i { s with input := rest }

/-- A table word put at the head of the host's list is decoded and run by the very next step. [30_encoding.md section
1 (R60), 30_encoding.md section 9 (R72)] -/
def Obligations.FetchedTableWordRunsNext : Prop :=
  ∀ (s : State) (nbits w : Nat) (i : Instr),
    decodeTableWord nbits w = some i → step (s.withFetchWord nbits w) = exec i s

/-- No state is stuck: every step answers a next state, and a command or a refused word leaves a response.
[30_encoding.md section 9 (R72), 60_exceptions.md section 15 (R176), 70_reset_and_hazards.md section 3 (R184)] -/
def Obligations.StepAlwaysAnswersANextState : Prop :=
  ∀ s : State, ∃ t, step s = .next t ∧
    (t.response ≠ none ↔ ∃ cw rest, s.input = .command cw :: rest)

/-- While the host sends nothing the block holds its state. [60_exceptions.md section 14 (R173),
70_reset_and_hazards.md section 1 (R180)] -/
def Obligations.IdleBlockHoldsItsState : Prop :=
  ∀ s : State, s.input = [] → step s = .next { s with response := none }

/-- A reset event, between commands or during one, leaves every piece of state at its reset value and gives no
response. [R180, R32, R185] -/
def Obligations.ResetLeavesTheValuesOfR32 : Prop :=
  ∀ (s : State) (e : HostEvent) (rest : List HostEvent), s.input = e :: rest →
    (e = .reset ∨ ∃ cw, e = .resetDuring cw) →
    ∃ t, step s = .next t ∧ (∀ k : Byte, t.tblRead k = tblgen k) ∧ (∀ i : Fin 16, t.selRead i = 1#16 <<< i.val) ∧
      t.r = 0 ∧ t.tgt = 0 ∧ t.tv = 0 ∧ t.cand = 0 ∧ (∀ i : Fin 16, t.basisRead i = 0) ∧ t.idx = 0 ∧ t.bi = 0 ∧ t.k = 0 ∧
      t.msg = [] ∧ t.response = none ∧ t.msgcap = s.msgcap ∧ t.input = rest

/-- TBL after any reset equals TBL after any other reset. [R33, R84] -/
def Obligations.ResetRebuildsTheSameTable : Prop :=
  (∀ (s s' t t' : State) (e e' : HostEvent) (rest rest' : List HostEvent),
      s.input = e :: rest → (e = .reset ∨ ∃ cw, e = .resetDuring cw) →
      s'.input = e' :: rest' → (e' = .reset ∨ ∃ cw, e' = .resetDuring cw) →
      step s = .next t → step s' = .next t' → t.tbl = t'.tbl) ∧
    ∀ (s : State) (e e' : HostEvent) (rest : List HostEvent), s.input = e :: e' :: rest →
      (e = .reset ∨ ∃ cw, e = .resetDuring cw) → (e' = .reset ∨ ∃ cw, e' = .resetDuring cw) →
      ∃ t u, step s = .next t ∧ step t = .next u ∧ u.tbl = t.tbl

/-- The block's invariant holds right after reset. [10_state.md section 9 (R32)] -/
def Obligations.InvariantHoldsAtReset : Prop :=
  State.Inv State.reset ∧ ∀ cap, cap ≤ Config.msgcapMax → State.Inv (State.resetWith cap)

/-- Every step keeps the invariant: constant tables, canonical and bounded buffer, counters in range, legal response.
[10_state.md sections 3, 6, 9 (R24, R27, R29), 20_memory.md section 1 (R41), 30_encoding.md section 1 (R61),
40_crc_table.md section 4 (R83)] -/
def Obligations.EveryStepKeepsTheInvariant : Prop :=
  ∀ s t : State, s.Inv → step s = .next t → t.Inv

/-- TBL is the 256 values of R82 after reset and for ever. [R82] -/
def Obligations.TableHoldsTheListing : Prop :=
  (∀ k : Byte, State.reset.tblRead k = tblgen k) ∧ listingOfR82.length = 256 ∧
    (∀ k : Byte, listingOfR82[k.toNat]? = some (tblgen k)) ∧
    ∀ s t : State, (∀ k, s.tblRead k = tblgen k) → step s = .next t → ∀ k, t.tblRead k = tblgen k

/-- The table is linear over GF(2), and its eight single-bit entries are those of R85. [R85] -/
def Obligations.TableIsLinear : Prop :=
  (∀ a b : Byte, tblgen (a ^^^ b) = tblgen a ^^^ tblgen b) ∧ tblgen 0 = 0 ∧
    tblgen 0x01 = 0x1021 ∧ tblgen 0x02 = 0x2042 ∧ tblgen 0x04 = 0x4084 ∧ tblgen 0x08 = 0x8108 ∧
    tblgen 0x10 = 0x1231 ∧ tblgen 0x20 = 0x2462 ∧ tblgen 0x40 = 0x48C4 ∧ tblgen 0x80 = 0x9188

/-- The 256 entries are pairwise different, and their high bytes take only 128 values. [R86] -/
def Obligations.TableEntriesAreDistinct : Prop :=
  (∀ a b : Byte, tblgen a = tblgen b → a = b) ∧
    ((List.range 256).map fun k => hiByte (tblgen (BitVec.ofNat 8 k))).toFinset.card = 128 ∧
    hiByte (tblgen 0x08) ^^^ hiByte (tblgen 0x80) = 0x10 ∧ hiByte (tblgen 0x01) = 0x10

/-- The per-byte step is the table entry of the high byte XOR the byte, XOR the low byte moved up, with the corner
cases of R90. [R90] -/
def Obligations.ByteStepIsTheTableFormula : Prop :=
  (∀ r b, bytestep r b = tblgen (hiByte r ^^^ b) ^^^ pairHiLo (loByte r) 0x00) ∧
    (∀ r, bytestep r 0x00 = tblgen (hiByte r) ^^^ pairHiLo (loByte r) 0x00) ∧
    bytestep 0x0000 0x00 = 0x0000 ∧ (∀ b, bytestep 0x0000 b = tblgen b) ∧
    (∀ r, bytestep r (hiByte r) = pairHiLo (loByte r) 0x00) ∧ bytestep 0x3273 0x34 = 0x13C6 ∧
    ∀ (s : State) (r : U16) (b : Byte), (∀ k, s.tblRead k = tblgen k) → s.stepByte r b = bytestep r b

/-- CRC16 answers the CRC of MSG[0..L-1] from the seed, writing R and IDX alone; RANGE beyond the buffer. A byte never
written reads as the free value of log 2, the MODEL'S CHOICE, where R49 has a model refuse. The values of the working
registers after the command are the MODEL'S CHOICE (log 7): R31 and R187 let a block keep others. [41_crc_engine.md
section 2 (R92), 20_memory.md section 5 (R49), notes/assumptions/2.md (log 2), notes/assumptions/7.md (log 7)] -/
def Obligations.Crc16FoldsTheMessage : Prop :=
  ∀ (s : State) (seed : U16) (len : U32), s.tbl = crcTable →
    (len.toNat ≤ s.msgcap →
      exec (.crc16 seed len) s = .next { s with
        r := crc16 seed ((List.range len.toNat).map s.memByte)
        idx := len
        response := some (responseWord .ok false (crc16 seed ((List.range len.toNat).map s.memByte))) }) ∧
    (s.msgcap < len.toNat → exec (.crc16 seed len) s = .next { s with response := some 0x02000000 }) ∧
    (len = 0 → exec (.crc16 seed len) s = .next { s with
        r := seed, idx := 0, response := some (responseWord .ok false seed) }) ∧
    (cwOp (encode (.crc16 seed len)) = 0x10 ∧ cwRsv (encode (.crc16 seed len)) = 0x00 ∧
      cwArg (encode (.crc16 seed len)) = seed ∧ cwLen (encode (.crc16 seed len)) = len)

/-- PREFIX answers the prefix function of the seed for every length, writing R and IDX alone. The values of the
working registers after the command are the MODEL'S CHOICE (log 7): R31 and R187 let a block keep others.
[41_crc_engine.md section 3 (R94), notes/assumptions/7.md (log 7)] -/
def Obligations.PrefixFoldsZeroBytes : Prop :=
  ∀ (s : State) (seed : U16) (len : U32), s.tbl = crcTable →
    exec (.prefixCrc seed len) s = .next { s with
        r := prefixfn seed len.toNat
        idx := len
        response := some (responseWord .ok false (prefixfn seed len.toNat)) } ∧
      (len = 0 → prefixfn seed len.toNat = seed) ∧ (seed = 0 → prefixfn seed len.toNat = 0) ∧
      (∀ len' : U32, len'.toNat = len.toNat + 32767 →
        ∃ t, exec (.prefixCrc seed len') s = .next t ∧
          t.response = some (responseWord .ok false (prefixfn seed len.toNat))) ∧
      (cwOp (encode (.prefixCrc seed len)) = 0x11 ∧ cwRsv (encode (.prefixCrc seed len)) = 0x00 ∧
        cwArg (encode (.prefixCrc seed len)) = seed ∧ cwLen (encode (.prefixCrc seed len)) = len)

/-- The prefix function is the CRC of L zero bytes, the identity for L = 0, and zero at seed 0. [R93] -/
def Obligations.PrefixIsTheCrcOfZeros : Prop :=
  (∀ (s : U16) (n : Nat), prefixfn s n = crc16 s (List.replicate n 0x00)) ∧
    (∀ s : U16, prefixfn s 0 = s) ∧ ∀ n : Nat, prefixfn 0x0000 n = 0x0000

/-- The table-driven CRC equals the bit-by-bit shift-and-XOR computation, for every seed and message. [R95] -/
def Obligations.TableEngineAgreesWithTheBitLoop : Prop :=
  ∀ (seed : U16) (bytes : List Byte), crc16 seed bytes = crcBitwise seed bytes

/-- The prefix function is linear over GF(2) in the seed, for every length. [R96, R11] -/
def Obligations.PrefixIsLinearInTheSeed : Prop :=
  (∀ (a b : U16) (n : Nat), prefixfn (a ^^^ b) n = prefixfn a n ^^^ prefixfn b n) ∧
    (∀ a c : U16, bytestep (a ^^^ c) 0x00 = bytestep a 0x00 ^^^ bytestep c 0x00) ∧
    ∀ (s : U16) (n : Nat), prefixfn s n = xorOver (fun i => prefixfn (selBit i) n) s

/-- The CRC from a seed is the zero-seeded CRC XOR the prefix function of the seed. [R97] -/
def Obligations.CrcIsAffineInTheSeed : Prop :=
  ∀ (seed : U16) (bytes : List Byte), crc16 seed bytes = crc16 0x0000 bytes ^^^ prefixfn seed bytes.length

/-- A round has the inverse R98 gives, and the prefix function is a bijection for every length. [41_crc_engine.md
section 5 (R98 part (a))] -/
def Obligations.PrefixIsABijection : Prop :=
  (∀ r : U16, round1Inv (round1 r) = r ∧ round1 (round1Inv r) = r) ∧
    (Function.Bijective fun r : U16 => bytestep r 0x00) ∧ ∀ n : Nat, Function.Bijective fun r : U16 => prefixfn r n

/-- The prefix function is periodic in the length with least period 32767. [41_crc_engine.md section 5 (R98 part (b))]
-/
def Obligations.PrefixHasPeriod32767 : Prop :=
  (∀ s : U16, prefixfn s 32767 = s) ∧ (∀ (s : U16) (n : Nat), prefixfn s (n + 32767) = prefixfn s n) ∧
    ∀ n : Nat, 0 < n → (∀ s : U16, prefixfn s n = s) → 32767 ≤ n

/-- The CRC of a concatenation is the CRC of the second part seeded with the CRC of the first. [R101] -/
def Obligations.CrcComposes : Prop :=
  (∀ (s : U16) (a b : List Byte), crc16 s (a ++ b) = crc16 (crc16 s a) b) ∧
    ∀ (s : U16) (m n : Nat), prefixfn s (m + n) = prefixfn (prefixfn s m) n

/-- Appending a message's zero-seeded CRC, high byte first, is the one way to make the whole CRC zero. [20_memory.md
section 2 (R44), 43_prefix_recovery.md section 3 (R139)] -/
def Obligations.ChecksumPairVerifies : Prop :=
  (∀ (m : List Byte) (x y : Byte), crc16 0x0000 (m ++ [x, y]) = 0x0000 ↔ pairHiLo x y = crc16 0x0000 m) ∧
    ∀ x y : Byte, crc16 0x0000 [0x12, 0x34, x, y] = 0x0000 ↔ x = 0x13 ∧ y = 0xC6

/-- The walk of R114 visits every subset exactly once in 65536 one-index steps, the empty subset last. [R114] -/
def Obligations.GrayWalkTestsEverySubsetOnce : Prop :=
  (∀ k : Nat, k < 65536 → candidate (k + 1) = candidate k ^^^ selBit (toggle (BitVec.ofNat 17 (k + 1)))) ∧
    (∀ p : U16, ∃! k : Nat, (1 ≤ k ∧ k ≤ 65536) ∧ candidate k = p) ∧
    ((List.range 16).map fun j => (toggle (BitVec.ofNat 17 (j + 1))).val) =
      [0, 1, 0, 2, 0, 1, 0, 3, 0, 1, 0, 2, 0, 1, 0, 4] ∧
    ((List.range 16).map fun j => candidate (j + 1)) =
      [0x0001, 0x0003, 0x0002, 0x0006, 0x0007, 0x0005, 0x0004, 0x000C, 0x000D, 0x000F, 0x000E, 0x000A, 0x000B, 0x0009,
        0x0008, 0x0018] ∧
    toggle 65535#17 = 0 ∧ candidate 65535 = 0x8000 ∧ toggle 65536#17 = 15 ∧ candidate 65536 = 0x0000

/-- After k search steps CAND is the mask of the toggled subset, and TV is the prefix function of CAND. [R116] -/
def Obligations.SearchStepKeepsTheSubset : Prop :=
  ∀ (s : State) (len k : Nat) (target : U16), s.tablesOk → s.basis = basisTable len → 1 ≤ k → k ≤ 65536 →
    (searchBody^[k] (searchStart target s)).k.toNat = k ∧
      (∀ i : Fin 16, (searchBody^[k] (searchStart target s)).cand.getLsbD i.val =
        decide (((List.range k).filter fun j => toggle (BitVec.ofNat 17 (j + 1)) = i).length % 2 = 1)) ∧
      (searchBody^[k] (searchStart target s)).cand = gray (BitVec.ofNat 16 (k % 65536)) ∧
      (searchBody^[k] (searchStart target s)).tv =
        xorOver (searchBody^[k] (searchStart target s)).basisRead (searchBody^[k] (searchStart target s)).cand ∧
      (searchBody^[k] (searchStart target s)).tv = prefixfn (searchBody^[k] (searchStart target s)).cand len

/-- The basis for lengths 0 to 4 is the listing of R112, and each basis is the one before shifted by eight places.
[R112] -/
def Obligations.BasisOfSmallLengths : Prop :=
  (∀ len : Fin 5, rowsOfR112[len.val]? = some (basisTable len.val).toList) ∧
    (∀ i : Fin 16, (basisTable 0).get i = 1#16 <<< i.val) ∧
    (∀ i : Fin 16, i.val < 8 → (basisTable 1).get i = 1#16 <<< (i.val + 8)) ∧
    (∀ i : Fin 16, 8 ≤ i.val → (basisTable 1).get i = tblgen (1#8 <<< (i.val - 8))) ∧
    ∀ (len : Nat) (i j : Fin 16), j.val = i.val + 8 → (basisTable (len + 1)).get i = (basisTable len).get j

/-- FINDPFX completes for every length and target, answering the prefix that maps to the target. The values of the
working registers after the command are the MODEL'S CHOICE (log 7): R31 and R187 let a block keep others.
[42_basis_solver.md (R111, R115, R117), 70_reset_and_hazards.md (R187), notes/assumptions/7.md (log 7)] -/
def Obligations.FindpfxFindsThePrefix : Prop :=
  ∀ (s : State) (len : U32) (target : U16), s.tablesOk →
    ∃ p : U16, prefixfn p len.toNat = target ∧
      exec (.findpfx len target) s = .next { s with
        r := prefixfn (selBit 15) len.toNat
        idx := len
        bi := 16#5
        basis := basisTable len.toNat
        tgt := target
        tv := target
        cand := p
        k := stepOf p
        response := some (responseWord .ok true p) } ∧
      (∀ i : Fin 16, (basisTable len.toNat).get i = prefixfn (1#16 <<< i.val) len.toNat) ∧
      (target = 0x0000 → p = 0x0000 ∧ stepOf p = 65536#17) ∧ (len = 0 → p = target) ∧
      (∀ (len' : U32), len'.toNat = len.toNat + 32767 →
        ∃ t, exec (.findpfx len' target) s = .next t ∧ t.response = some (responseWord .ok true p)) ∧
      (cwOp (encode (.findpfx len target)) = 0x20 ∧ cwRsv (encode (.findpfx len target)) = 0x00 ∧
        cwArg (encode (.findpfx len target)) = target ∧ cwLen (encode (.findpfx len target)) = len)

/-- The incremental Gray-code search returns what the plain search over all 65536 seeds returns. In the RECOVER half:
a byte never written reads as the free value of log 2, the MODEL'S CHOICE, where R49 has a model refuse.
[42_basis_solver.md sections 3, 4 (R113, R116), 43_prefix_recovery.md section 1 (R135), notes/assumptions/2.md (log
2)] -/
def Obligations.SolverEqualsThePlainSearch : Prop :=
  ∀ (s : State) (len : U32) (target : U16), s.tablesOk →
    (solve len target s).2 = findPrefix len.toNat target ∧
      (recoverRun len target s).2 = recoverPrefix ((List.range len.toNat).map s.memByte) target

/-- For every length the basis is independent, the preimage unique, and every search stops on it. In the RECOVER
clause: a byte never written reads as the free value of log 2, the MODEL'S CHOICE, where R49 has a model refuse.
[42_basis_solver.md section 5 (R119), 20_memory.md section 5 (R49), notes/assumptions/2.md (log 2)] -/
def Obligations.BasisIsFullRankSoTheSentinelIsUnreachable : Prop :=
  (∀ (len : Nat) (mask : U16), mask ≠ 0x0000 → xorOver (fun i => prefixfn (selBit i) len) mask ≠ 0x0000) ∧
    (∀ len : Nat, Function.Bijective fun p : U16 => prefixfn p len) ∧
    (∀ (len : Nat) (target : U16), ∃! p : U16, prefixfn p len = target) ∧
    (∀ (s : State) (len : U32) (target : U16), s.tablesOk →
      ∃ t p, exec (.findpfx len target) s = .next t ∧ t.response = some (responseWord .ok true p) ∧
        ∀ q, prefixfn q len.toNat = target ↔ q = p) ∧
    ∀ (s : State) (len : U32) (ecrc : U16), s.tablesOk → len.toNat ≤ s.msgcap →
      ∃ t p, exec (.recover len ecrc) s = .next t ∧ t.response = some (responseWord .ok true p) ∧
        ∀ q, prefixfn q len.toNat = crc16 0x0000 ((List.range len.toNat).map s.memByte) ^^^ ecrc ↔ q = p

/-- FINDPFX of length 0 answers its target, its basis being the selector table. In the clause on BASIS, CAND and K:
what the working registers hold after the command is the MODEL'S CHOICE (log 7): R31 lets a block keep other values.
[42_basis_solver.md section 5 (R118), 10_state.md section 3 (R24), notes/assumptions/7.md (log 7)] -/
def Obligations.FindpfxOfLengthZeroIsTheTarget : Prop :=
  ∀ (s : State) (target : U16), s.tablesOk →
    (∃ t, exec (.findpfx 0 target) s = .next t ∧ t.response = some (responseWord .ok true target) ∧
      (∀ i : Fin 16, t.basisRead i = t.selRead i) ∧ t.cand = target ∧ (target = 0x0000 → t.k = 65536#17)) ∧
    ∀ k : Nat, k ≤ 65536 →
      (searchBody^[k] (searchStart target (buildBasis 0 s))).tv =
        (searchBody^[k] (searchStart target (buildBasis 0 s))).cand

/-- A search with solution P stops at step gray_inv(P), or at step 65536 for P = 0. In the clause on K after FINDPFX:
what the working registers hold after the command is the MODEL'S CHOICE (log 7): R31 lets a block keep other values.
[42_basis_solver.md section 5 (R120), 10_state.md section 3 (R24), notes/assumptions/7.md (log 7)] -/
def Obligations.SearchStopsAtTheStepOfItsSolution : Prop :=
  (∀ (p : U16) (k : Nat), 1 ≤ k → k ≤ 65536 →
      (candidate k = p ↔ k = if p = 0x0000 then 65536 else (grayInv p).toNat)) ∧
    (∀ (s : State) (len : U32) (target : U16), s.tablesOk →
      ∃ t p, exec (.findpfx len target) s = .next t ∧ prefixfn p len.toNat = target ∧
        t.k.toNat = if p = 0x0000 then 65536 else (grayInv p).toNat) ∧
    grayInv 0x0001 = 1 ∧ grayInv 0x0003 = 2 ∧ grayInv 0x0100 = 511 ∧ grayInv 0xFFFF = 43690 ∧ grayInv 0x8000 = 65535

/-- A zero value with the found bit is the prefix 0; without it no subset matched; and it happens exactly for target
0. [R121] -/
def Obligations.ZeroValueIsToldApartByTheFoundBit : Prop :=
  (∀ (s : State) (target : U16), (search target s).2.found = false →
      (search target s).2.value = 0x0000 ∧
        ∀ k : Nat, 1 ≤ k → k ≤ 65536 → (searchBody^[k] (searchStart target s)).tv ≠ target) ∧
    ∀ (s : State) (len : U32) (target : U16), s.tablesOk →
      ∃ t rw, exec (.findpfx len target) s = .next t ∧ t.response = some rw ∧ rwFound rw = true ∧
        (rwValue rw = 0x0000 ↔ target = 0x0000) ∧ (rwValue rw = 0x0000 → prefixfn 0x0000 len.toNat = target)

/-- RECOVER completes with the seed under which the message body has the embedded checksum; RANGE beyond the buffer. A
byte never written reads as the free value of log 2, the MODEL'S CHOICE, where R49 has a model refuse. The values of
the working registers after the command are the MODEL'S CHOICE (log 7): R31 and R187 let a block keep others.
[43_prefix_recovery.md (R135, R136), 20_memory.md section 5 (R49), 70_reset_and_hazards.md (R187),
notes/assumptions/2.md (log 2), notes/assumptions/7.md (log 7)] -/
def Obligations.RecoverFindsThePrefix : Prop :=
  ∀ (s : State) (len : U32) (ecrc : U16), s.tablesOk →
    (len.toNat ≤ s.msgcap →
      ∃ p : U16, prefixfn p len.toNat = crc16 0x0000 ((List.range len.toNat).map s.memByte) ^^^ ecrc ∧
        crc16 p ((List.range len.toNat).map s.memByte) = ecrc ∧
        recoverPrefix ((List.range len.toNat).map s.memByte) ecrc = ⟨p, true⟩ ∧
        findPrefix len.toNat (crc16 0x0000 ((List.range len.toNat).map s.memByte) ^^^ ecrc) = ⟨p, true⟩ ∧
        (len = 0 → p = ecrc) ∧
        exec (.recover len ecrc) s = .next { s with
          r := prefixfn (selBit 15) len.toNat
          idx := len
          bi := 16#5
          basis := basisTable len.toNat
          tgt := crc16 0x0000 ((List.range len.toNat).map s.memByte) ^^^ ecrc
          tv := crc16 0x0000 ((List.range len.toNat).map s.memByte) ^^^ ecrc
          cand := p
          k := stepOf p
          response := some (responseWord .ok true p) }) ∧
    (s.msgcap < len.toNat → exec (.recover len ecrc) s = .next { s with response := some 0x02000000 }) ∧
    (cwOp (encode (.recover len ecrc)) = 0x21 ∧ cwRsv (encode (.recover len ecrc)) = 0x00 ∧
      cwArg (encode (.recover len ecrc)) = ecrc ∧ cwLen (encode (.recover len ecrc)) = len)

/-- RECOVER answers what the host gets from CRC16, an XOR and FINDPFX. Where MSG[0..L-1] has bytes never written,
CRC16 and RECOVER read the same free value there: the MODEL'S CHOICE (log 2), where R49 has a model refuse.
[43_prefix_recovery.md section 3 (R137), 20_memory.md section 5 (R49), notes/assumptions/2.md (log 2)] -/
def Obligations.RecoverEqualsTheHostSequence : Prop :=
  ∀ (s : State) (len : U32) (ecrc : U16), len.toNat ≤ s.msgcap →
    ∃ t₁ rw₁ t₂ rw₂ t₃ rw₃,
      exec (.crc16 0x0000 len) s = .next t₁ ∧ t₁.response = some rw₁ ∧
      exec (.findpfx len (rwValue rw₁ ^^^ ecrc)) t₁ = .next t₂ ∧ t₂.response = some rw₂ ∧
      exec (.recover len ecrc) s = .next t₃ ∧ t₃.response = some rw₃ ∧
      rwValue rw₃ = rwValue rw₂ ∧ rwFound rw₃ = rwFound rw₂

/-- RECOVER returns the seed with which the embedded checksum was made, and it is the only one. M may hold bytes never
written, each the free value of log 2: the MODEL'S CHOICE, where R49 has a model refuse. [43_prefix_recovery.md
section 3 (R138), 20_memory.md section 5 (R49), notes/assumptions/2.md (log 2)] -/
def Obligations.RecoverReturnsTheSeedOfTheChecksum : Prop :=
  ∀ (s : State) (len : U32), s.tablesOk → len.toNat ≤ s.msgcap →
    (∀ p : U16, ∃ t, exec (.recover len (crc16 p ((List.range len.toNat).map s.memByte))) s = .next t ∧
      t.response = some (responseWord .ok true p)) ∧
    ∀ e : U16, ∃ t v, exec (.recover len e) s = .next t ∧ t.response = some (responseWord .ok true v) ∧
      ∀ q, crc16 q ((List.range len.toNat).map s.memByte) = e ↔ q = v

/-- WRMSG stores its byte at its address and changes nothing else; RANGE beyond the buffer. [R145] -/
def Obligations.WrmsgStoresOneByte : Prop :=
  ∀ (s : State) (a : U32) (byte : Byte),
    (a.toNat < s.msgcap → ∃ t, exec (.wrmsg a byte) s = .next t ∧
      t = { s with msg := t.msg, response := some (responseWord .ok false 0x0000) } ∧
      t.memByte a.toNat = byte ∧ ∀ x, x ≠ a.toNat → t.memByte x = s.memByte x) ∧
    (s.msgcap ≤ a.toNat → exec (.wrmsg a byte) s = .next { s with response := some 0x02000000 }) ∧
    (cwOp (encode (.wrmsg a byte)) = 0x01 ∧ cwRsv (encode (.wrmsg a byte)) = 0x00 ∧
      cwArgHi (encode (.wrmsg a byte)) = 0x00 ∧ cwArgLo (encode (.wrmsg a byte)) = byte ∧
      cwLen (encode (.wrmsg a byte)) = a) ∧
    ∀ (cw : U64) (rest : List HostEvent), s.input = .command cw :: rest → cwOp cw = 0x01 → cwArgHi cw ≠ 0x00 →
      step s = .next { s with input := rest, response := some 0x01000000 }

/-- RDMSG answers the byte at its address (log 2's free value where unwritten), zero-extended, and changes nothing;
RANGE beyond the buffer. [44_buffer_access.md (R146, but for its note on a model's refusal)] -/
def Obligations.RdmsgLoadsOneByte : Prop :=
  ∀ (s : State) (a : U32),
    (a.toNat < s.msgcap → ∃ rw, exec (.rdmsg a) s = .next { s with response := some rw } ∧ rwStatus rw = 0x00 ∧
      rwFound rw = false ∧ rwZero rw = 0 ∧ loByte (rwValue rw) = s.memByte a.toNat ∧ hiByte (rwValue rw) = 0x00) ∧
    (s.msgcap ≤ a.toNat → exec (.rdmsg a) s = .next { s with response := some 0x02000000 }) ∧
    (cwOp (encode (.rdmsg a)) = 0x02 ∧ cwRsv (encode (.rdmsg a)) = 0x00 ∧ cwArg (encode (.rdmsg a)) = 0x0000 ∧
      cwLen (encode (.rdmsg a)) = a) ∧
    ∀ (cw : U64) (rest : List HostEvent), s.input = .command cw :: rest → cwOp cw = 0x02 → cwArg cw ≠ 0x0000 →
      step s = .next { s with input := rest, response := some 0x01000000 }

/-- Through any commands between, RDMSG answers the byte that the last WRMSG stored. [20_memory.md section 7 (R50
clause (a), R52)] -/
def Obligations.ReadReturnsTheLastWrite : Prop :=
  ∀ (s : State) (a : U32) (v : Byte) (between rest : List HostEvent), a.toNat < s.msgcap →
    s.input = .command (encode (.wrmsg a v)) :: (between ++ .command (encode (.rdmsg a)) :: rest) →
    (∀ e ∈ between, e ≠ .reset ∧ (∀ cw, e ≠ .resetDuring cw) ∧ ∀ b, e ≠ .command (encode (.wrmsg a b))) →
    ∃ t : State, Host.Core.run Sys2Proof.core (between.length + 2) s = .next t ∧
      t.response = some (responseWord .ok false (zext16 v))

/-- RANGE is answered exactly by the commands R162 names, ILLEGAL exactly by illegal words, and neither changes any
state. [R162] -/
def Obligations.ErrorResponsesChangeNothing : Prop :=
  (∀ (i : Instr) (s : State),
      (outOfRange i s = true → exec i s = .next { s with response := some 0x02000000 }) ∧
      (outOfRange i s = false → ∃ t rw, exec i s = .next t ∧ t.response = some rw ∧ rwStatus rw = 0x00)) ∧
    (∀ (s : State) (i : Instr), outOfRange i s = true ↔
      (∃ a b, i = .wrmsg a b ∧ s.msgcap ≤ a.toNat) ∨ (∃ a, i = .rdmsg a ∧ s.msgcap ≤ a.toNat) ∨
        (∃ seed len, i = .crc16 seed len ∧ s.msgcap < len.toNat) ∨ ∃ len e, i = .recover len e ∧ s.msgcap < len.toNat) ∧
    ∀ (s : State) (cw : U64) (c : IllegalCause) (rest : List HostEvent), s.input = .command cw :: rest →
      decode cw = .illegal c → step s = .next { s with input := rest, response := some 0x01000000 }

/-- WRMSG and RDMSG leave every register, table and other byte alone. [44_buffer_access.md (R145, R146, State
written), 20_memory.md section 1 (R41)] -/
def Obligations.BufferCommandsFrame : Prop :=
  ∀ (i : Instr) (s t : State), ((∃ a b, i = .wrmsg a b) ∨ ∃ a, i = .rdmsg a) → exec i s = .next t →
    t = { s with msg := t.msg, response := t.response } ∧
      ∀ x : Nat, storeAddress i s ≠ some x → t.memByte x = s.memByte x

/-- CRC16 and PREFIX write R and IDX and nothing else, and every byte of MSG reads as before. [41_crc_engine.md
sections 2, 3, 7 (State written; R104)] -/
def Obligations.EngineCommandsFrame : Prop :=
  ∀ (i : Instr) (s t : State), ((∃ seed len, i = .crc16 seed len) ∨ ∃ seed len, i = .prefixCrc seed len) →
    exec i s = .next t →
    t = { s with r := t.r, idx := t.idx, response := t.response } ∧ ∀ x : Nat, t.memByte x = s.memByte x

/-- FINDPFX and RECOVER write the working registers and nothing else, and every byte of MSG reads as before.
[42_basis_solver.md section 3 (R115, State written), 43_prefix_recovery.md section 2 (R136, State written),
20_memory.md section 1 (R40)] -/
def Obligations.SolverCommandsFrame : Prop :=
  ∀ (i : Instr) (s t : State), ((∃ len v, i = .findpfx len v) ∨ ∃ len v, i = .recover len v) → exec i s = .next t →
    t = { s with
      r := t.r, idx := t.idx, bi := t.bi, basis := t.basis, tgt := t.tgt, tv := t.tv, cand := t.cand, k := t.k
      response := t.response } ∧ ∀ x : Nat, t.memByte x = s.memByte x

/-- Each piece of state is written only by the commands that R20 names for it, TBL by reset alone. [10_state.md
section 1 (R20, the column Written by), 40_crc_table.md section 4 (R83), 20_memory.md section 7 (R52)] -/
def Obligations.EachPieceIsWrittenOnlyByItsCommands : Prop :=
  (∀ (i : Instr) (s t : State), exec i s = .next t →
      t.tbl = s.tbl ∧ t.sel = s.sel ∧ (t.msg ≠ s.msg → ∃ a b, i = .wrmsg a b) ∧
      (t.r ≠ s.r ∨ t.idx ≠ s.idx →
        (∃ v len, i = .crc16 v len) ∨ (∃ v len, i = .prefixCrc v len) ∨ (∃ len v, i = .findpfx len v) ∨
          ∃ len v, i = .recover len v) ∧
      (t.basis ≠ s.basis ∨ t.tgt ≠ s.tgt ∨ t.tv ≠ s.tv ∨ t.cand ≠ s.cand ∨ t.bi ≠ s.bi ∨ t.k ≠ s.k →
        (∃ len v, i = .findpfx len v) ∨ ∃ len v, i = .recover len v)) ∧
    ∀ s t : State, step s = .next t → t.tbl ≠ s.tbl ∨ t.sel ≠ s.sel →
      ∃ e rest, s.input = e :: rest ∧ (e = .reset ∨ ∃ cw, e = .resetDuring cw)

/-- After an error response the next event has the effect it would have had without the refused command.
[60_exceptions.md section 6 (R166)] -/
def Obligations.CommandAfterAnErrorRunsAsWithoutIt : Prop :=
  ∀ (s t : State) (cw : U64) (rest : List HostEvent) (rw : U32), s.input = .command cw :: rest →
    step s = .next t → t.response = some rw → rwStatus rw ≠ 0x00 →
    ∃ u v, step t = .next u ∧ step { s with input := rest } = .next v ∧ u.response = v.response ∧ SameVisible u v

/-- No response depends on what a working register holds before the command. [R31] -/
def Obligations.WorkingRegistersAreUnobservable : Prop :=
  ∀ s t : State, SameVisible s t →
    ∃ s' t', step s = .next s' ∧ step t = .next t' ∧ s'.response = t'.response ∧ SameVisible s' t'

/-- A command that reads only written bytes answers the same whatever MSG held before. [20_memory.md section 5 (R49),
70_reset_and_hazards.md section 2 (R182)] -/
def Obligations.UnspecifiedContentsDoNotReachTheResponse : Prop :=
  (∀ (i : Instr) (s : State) (n : Nat), readsOnlyWritten i s = true →
      ∃ t u, exec i s = .next t ∧ exec i { s with resetCount := n } = .next u ∧ t.response = u.response) ∧
    ∀ (s : State) (v : U16) (len : U32),
      readsOnlyWritten (.prefixCrc v len) s = true ∧ readsOnlyWritten (.findpfx len v) s = true

/-- The assembler refuses exactly the lines with an operand that does not fit its field, and encodes the others.
[30_encoding.md section 6 (R66)] -/
def Obligations.AssemblerEncodesOrRefusesEachLine : Prop :=
  (∀ a byte : Nat, assemble (.wrmsg a byte) = if a ≤ 0xFFFFFFFF ∧ byte ≤ 0xFF then
      some [BitVec.ofNat 64 (0x01 * 2 ^ 56 + byte * 2 ^ 32 + a)] else none) ∧
    (∀ a : Nat, assemble (.rdmsg a) = if a ≤ 0xFFFFFFFF then some [BitVec.ofNat 64 (0x02 * 2 ^ 56 + a)] else none) ∧
    (∀ seed len : Nat, assemble (.crc16 seed len) = if seed ≤ 0xFFFF ∧ len ≤ 0xFFFFFFFF then
      some [BitVec.ofNat 64 (0x10 * 2 ^ 56 + seed * 2 ^ 32 + len)] else none) ∧
    (∀ seed len : Nat, assemble (.prefixCrc seed len) = if seed ≤ 0xFFFF ∧ len ≤ 0xFFFFFFFF then
      some [BitVec.ofNat 64 (0x11 * 2 ^ 56 + seed * 2 ^ 32 + len)] else none) ∧
    (∀ len target : Nat, assemble (.findpfx len target) = if len ≤ 0xFFFFFFFF ∧ target ≤ 0xFFFF then
      some [BitVec.ofNat 64 (0x20 * 2 ^ 56 + target * 2 ^ 32 + len)] else none) ∧
    ∀ len ecrc : Nat, assemble (.recover len ecrc) = if len ≤ 0xFFFFFFFF ∧ ecrc ≤ 0xFFFF then
      some [BitVec.ofNat 64 (0x21 * 2 ^ 56 + ecrc * 2 ^ 32 + len)] else none

/-- FILL assembles to one WRMSG per byte at rising addresses, in order. [R67] -/
def Obligations.FillIsItsWrmsgCommandsInOrder : Prop :=
  ∀ (a : Nat) (bytes : List Nat), bytes ≠ [] → a + (bytes.length - 1) ≤ 0xFFFFFFFF → (∀ b ∈ bytes, b ≤ 0xFF) →
    ∃ ws : List U64, assemble (.fill a bytes) = some ws ∧ ws.length = bytes.length ∧
      ∀ (j b : Nat), bytes[j]? = some b → ∃ w, ws[j]? = some w ∧ assemble (.wrmsg (a + j) b) = some [w]

/-- A reset event, between commands or during one, selects the unspecified contents of MSG anew (log 2). That the
contents are a function of a count of resets is the MODEL'S CHOICE (log 2). [60_exceptions.md section 15 (R174, the
host may not assume any MSG content), 10_state.md section 9 (R32), notes/assumptions/2.md (log 2)] -/
def Obligations.ResetSelectsTheContentsAnew : Prop :=
  (∀ (s : State) (e : HostEvent) (rest : List HostEvent), s.input = e :: rest →
      (e = .reset ∨ ∃ cw, e = .resetDuring cw) →
      ∃ t, step s = .next t ∧ t.resetCount = s.resetCount + 1 ∧
        ∀ a : Nat, t.memByte a = Config.unwrittenByte (s.resetCount + 1) a) ∧
    (∀ s : State, (s.input = [] ∨ ∃ cw rest, s.input = .command cw :: rest) →
      ∃ t, step s = .next t ∧ t.resetCount = s.resetCount)
end

