-- ==== Sys2Proof/Laws/State.lean ====
section
/-! SUPPORT. For each update of the state, one lemma per field: what it writes and what it leaves alone. -/

namespace Sys2Proof.Machine

set_option Elab.async false

@[simp] theorem State.memWrite_tbl (s : State) (a : U32) (v : Byte) :
    (s.memWrite a v).tbl = s.tbl := rfl
@[simp] theorem State.memWrite_sel (s : State) (a : U32) (v : Byte) :
    (s.memWrite a v).sel = s.sel := rfl
@[simp] theorem State.memWrite_msg (s : State) (a : U32) (v : Byte) :
    (s.memWrite a v).msg = s.msg.put a.toNat v := rfl
@[simp] theorem State.memWrite_r (s : State) (a : U32) (v : Byte) :
    (s.memWrite a v).r = s.r := rfl
@[simp] theorem State.memWrite_basis (s : State) (a : U32) (v : Byte) :
    (s.memWrite a v).basis = s.basis := rfl
@[simp] theorem State.memWrite_tgt (s : State) (a : U32) (v : Byte) :
    (s.memWrite a v).tgt = s.tgt := rfl
@[simp] theorem State.memWrite_tv (s : State) (a : U32) (v : Byte) :
    (s.memWrite a v).tv = s.tv := rfl
@[simp] theorem State.memWrite_cand (s : State) (a : U32) (v : Byte) :
    (s.memWrite a v).cand = s.cand := rfl
@[simp] theorem State.memWrite_idx (s : State) (a : U32) (v : Byte) :
    (s.memWrite a v).idx = s.idx := rfl
@[simp] theorem State.memWrite_bi (s : State) (a : U32) (v : Byte) :
    (s.memWrite a v).bi = s.bi := rfl
@[simp] theorem State.memWrite_k (s : State) (a : U32) (v : Byte) :
    (s.memWrite a v).k = s.k := rfl
@[simp] theorem State.memWrite_msgcap (s : State) (a : U32) (v : Byte) :
    (s.memWrite a v).msgcap = s.msgcap := rfl
@[simp] theorem State.memWrite_resetCount (s : State) (a : U32) (v : Byte) :
    (s.memWrite a v).resetCount = s.resetCount := rfl
@[simp] theorem State.memWrite_input (s : State) (a : U32) (v : Byte) :
    (s.memWrite a v).input = s.input := rfl
@[simp] theorem State.memWrite_response (s : State) (a : U32) (v : Byte) :
    (s.memWrite a v).response = s.response := rfl

@[simp] theorem State.basisWrite_tbl (s : State) (i : Fin 16) (v : U16) :
    (s.basisWrite i v).tbl = s.tbl := rfl
@[simp] theorem State.basisWrite_sel (s : State) (i : Fin 16) (v : U16) :
    (s.basisWrite i v).sel = s.sel := rfl
@[simp] theorem State.basisWrite_msg (s : State) (i : Fin 16) (v : U16) :
    (s.basisWrite i v).msg = s.msg := rfl
@[simp] theorem State.basisWrite_r (s : State) (i : Fin 16) (v : U16) :
    (s.basisWrite i v).r = s.r := rfl
@[simp] theorem State.basisWrite_basis (s : State) (i : Fin 16) (v : U16) :
    (s.basisWrite i v).basis = s.basis.set i v := rfl
@[simp] theorem State.basisWrite_tgt (s : State) (i : Fin 16) (v : U16) :
    (s.basisWrite i v).tgt = s.tgt := rfl
@[simp] theorem State.basisWrite_tv (s : State) (i : Fin 16) (v : U16) :
    (s.basisWrite i v).tv = s.tv := rfl
@[simp] theorem State.basisWrite_cand (s : State) (i : Fin 16) (v : U16) :
    (s.basisWrite i v).cand = s.cand := rfl
@[simp] theorem State.basisWrite_idx (s : State) (i : Fin 16) (v : U16) :
    (s.basisWrite i v).idx = s.idx := rfl
@[simp] theorem State.basisWrite_bi (s : State) (i : Fin 16) (v : U16) :
    (s.basisWrite i v).bi = s.bi := rfl
@[simp] theorem State.basisWrite_k (s : State) (i : Fin 16) (v : U16) :
    (s.basisWrite i v).k = s.k := rfl
@[simp] theorem State.basisWrite_msgcap (s : State) (i : Fin 16) (v : U16) :
    (s.basisWrite i v).msgcap = s.msgcap := rfl
@[simp] theorem State.basisWrite_resetCount (s : State) (i : Fin 16) (v : U16) :
    (s.basisWrite i v).resetCount = s.resetCount := rfl
@[simp] theorem State.basisWrite_input (s : State) (i : Fin 16) (v : U16) :
    (s.basisWrite i v).input = s.input := rfl
@[simp] theorem State.basisWrite_response (s : State) (i : Fin 16) (v : U16) :
    (s.basisWrite i v).response = s.response := rfl

@[simp] theorem State.respond_tbl (s : State) (st : Status) (f : Bool) (v : U16) :
    (s.respond st f v).tbl = s.tbl := rfl
@[simp] theorem State.respond_sel (s : State) (st : Status) (f : Bool) (v : U16) :
    (s.respond st f v).sel = s.sel := rfl
@[simp] theorem State.respond_msg (s : State) (st : Status) (f : Bool) (v : U16) :
    (s.respond st f v).msg = s.msg := rfl
@[simp] theorem State.respond_r (s : State) (st : Status) (f : Bool) (v : U16) :
    (s.respond st f v).r = s.r := rfl
@[simp] theorem State.respond_basis (s : State) (st : Status) (f : Bool) (v : U16) :
    (s.respond st f v).basis = s.basis := rfl
@[simp] theorem State.respond_tgt (s : State) (st : Status) (f : Bool) (v : U16) :
    (s.respond st f v).tgt = s.tgt := rfl
@[simp] theorem State.respond_tv (s : State) (st : Status) (f : Bool) (v : U16) :
    (s.respond st f v).tv = s.tv := rfl
@[simp] theorem State.respond_cand (s : State) (st : Status) (f : Bool) (v : U16) :
    (s.respond st f v).cand = s.cand := rfl
@[simp] theorem State.respond_idx (s : State) (st : Status) (f : Bool) (v : U16) :
    (s.respond st f v).idx = s.idx := rfl
@[simp] theorem State.respond_bi (s : State) (st : Status) (f : Bool) (v : U16) :
    (s.respond st f v).bi = s.bi := rfl
@[simp] theorem State.respond_k (s : State) (st : Status) (f : Bool) (v : U16) :
    (s.respond st f v).k = s.k := rfl
@[simp] theorem State.respond_msgcap (s : State) (st : Status) (f : Bool) (v : U16) :
    (s.respond st f v).msgcap = s.msgcap := rfl
@[simp] theorem State.respond_resetCount (s : State) (st : Status) (f : Bool) (v : U16) :
    (s.respond st f v).resetCount = s.resetCount := rfl
@[simp] theorem State.respond_input (s : State) (st : Status) (f : Bool) (v : U16) :
    (s.respond st f v).input = s.input := rfl
@[simp] theorem State.respond_response (s : State) (st : Status) (f : Bool) (v : U16) :
    (s.respond st f v).response = some (responseWord st f v) := rfl

@[simp] theorem State.takeEvent_tbl (s : State) (rest : List HostEvent) :
    (s.takeEvent rest).tbl = s.tbl := rfl
@[simp] theorem State.takeEvent_sel (s : State) (rest : List HostEvent) :
    (s.takeEvent rest).sel = s.sel := rfl
@[simp] theorem State.takeEvent_msg (s : State) (rest : List HostEvent) :
    (s.takeEvent rest).msg = s.msg := rfl
@[simp] theorem State.takeEvent_r (s : State) (rest : List HostEvent) :
    (s.takeEvent rest).r = s.r := rfl
@[simp] theorem State.takeEvent_basis (s : State) (rest : List HostEvent) :
    (s.takeEvent rest).basis = s.basis := rfl
@[simp] theorem State.takeEvent_tgt (s : State) (rest : List HostEvent) :
    (s.takeEvent rest).tgt = s.tgt := rfl
@[simp] theorem State.takeEvent_tv (s : State) (rest : List HostEvent) :
    (s.takeEvent rest).tv = s.tv := rfl
@[simp] theorem State.takeEvent_cand (s : State) (rest : List HostEvent) :
    (s.takeEvent rest).cand = s.cand := rfl
@[simp] theorem State.takeEvent_idx (s : State) (rest : List HostEvent) :
    (s.takeEvent rest).idx = s.idx := rfl
@[simp] theorem State.takeEvent_bi (s : State) (rest : List HostEvent) :
    (s.takeEvent rest).bi = s.bi := rfl
@[simp] theorem State.takeEvent_k (s : State) (rest : List HostEvent) :
    (s.takeEvent rest).k = s.k := rfl
@[simp] theorem State.takeEvent_msgcap (s : State) (rest : List HostEvent) :
    (s.takeEvent rest).msgcap = s.msgcap := rfl
@[simp] theorem State.takeEvent_resetCount (s : State) (rest : List HostEvent) :
    (s.takeEvent rest).resetCount = s.resetCount := rfl
@[simp] theorem State.takeEvent_input (s : State) (rest : List HostEvent) :
    (s.takeEvent rest).input = rest := rfl
@[simp] theorem State.takeEvent_response (s : State) (rest : List HostEvent) :
    (s.takeEvent rest).response = s.response := rfl

@[simp] theorem State.wait_tbl (s : State) :
    s.wait.tbl = s.tbl := rfl
@[simp] theorem State.wait_sel (s : State) :
    s.wait.sel = s.sel := rfl
@[simp] theorem State.wait_msg (s : State) :
    s.wait.msg = s.msg := rfl
@[simp] theorem State.wait_r (s : State) :
    s.wait.r = s.r := rfl
@[simp] theorem State.wait_basis (s : State) :
    s.wait.basis = s.basis := rfl
@[simp] theorem State.wait_tgt (s : State) :
    s.wait.tgt = s.tgt := rfl
@[simp] theorem State.wait_tv (s : State) :
    s.wait.tv = s.tv := rfl
@[simp] theorem State.wait_cand (s : State) :
    s.wait.cand = s.cand := rfl
@[simp] theorem State.wait_idx (s : State) :
    s.wait.idx = s.idx := rfl
@[simp] theorem State.wait_bi (s : State) :
    s.wait.bi = s.bi := rfl
@[simp] theorem State.wait_k (s : State) :
    s.wait.k = s.k := rfl
@[simp] theorem State.wait_msgcap (s : State) :
    s.wait.msgcap = s.msgcap := rfl
@[simp] theorem State.wait_resetCount (s : State) :
    s.wait.resetCount = s.resetCount := rfl
@[simp] theorem State.wait_input (s : State) :
    s.wait.input = s.input := rfl
@[simp] theorem State.wait_response (s : State) :
    s.wait.response = none := rfl

@[simp] theorem State.takeReset_tbl (s : State) :
    s.takeReset.tbl = crcTable := rfl
@[simp] theorem State.takeReset_sel (s : State) :
    s.takeReset.sel = selTable := rfl
@[simp] theorem State.takeReset_msg (s : State) :
    s.takeReset.msg = [] := rfl
@[simp] theorem State.takeReset_r (s : State) :
    s.takeReset.r = 0x0000 := rfl
@[simp] theorem State.takeReset_basis (s : State) :
    s.takeReset.basis = Vector.replicate 16 0x0000 := rfl
@[simp] theorem State.takeReset_tgt (s : State) :
    s.takeReset.tgt = 0x0000 := rfl
@[simp] theorem State.takeReset_tv (s : State) :
    s.takeReset.tv = 0x0000 := rfl
@[simp] theorem State.takeReset_cand (s : State) :
    s.takeReset.cand = 0x0000 := rfl
@[simp] theorem State.takeReset_idx (s : State) :
    s.takeReset.idx = 0 := rfl
@[simp] theorem State.takeReset_bi (s : State) :
    s.takeReset.bi = 0 := rfl
@[simp] theorem State.takeReset_k (s : State) :
    s.takeReset.k = 0 := rfl
@[simp] theorem State.takeReset_msgcap (s : State) :
    s.takeReset.msgcap = s.msgcap := rfl
@[simp] theorem State.takeReset_resetCount (s : State) :
    s.takeReset.resetCount = s.resetCount + 1 := rfl
@[simp] theorem State.takeReset_input (s : State) :
    s.takeReset.input = s.input := rfl
@[simp] theorem State.takeReset_response (s : State) :
    s.takeReset.response = none := rfl

@[simp] theorem foldStart_tbl (seed : U16) (s : State) :
    (foldStart seed s).tbl = s.tbl := rfl
@[simp] theorem foldStart_sel (seed : U16) (s : State) :
    (foldStart seed s).sel = s.sel := rfl
@[simp] theorem foldStart_msg (seed : U16) (s : State) :
    (foldStart seed s).msg = s.msg := rfl
@[simp] theorem foldStart_r (seed : U16) (s : State) :
    (foldStart seed s).r = seed := rfl
@[simp] theorem foldStart_basis (seed : U16) (s : State) :
    (foldStart seed s).basis = s.basis := rfl
@[simp] theorem foldStart_tgt (seed : U16) (s : State) :
    (foldStart seed s).tgt = s.tgt := rfl
@[simp] theorem foldStart_tv (seed : U16) (s : State) :
    (foldStart seed s).tv = s.tv := rfl
@[simp] theorem foldStart_cand (seed : U16) (s : State) :
    (foldStart seed s).cand = s.cand := rfl
@[simp] theorem foldStart_idx (seed : U16) (s : State) :
    (foldStart seed s).idx = 0 := rfl
@[simp] theorem foldStart_bi (seed : U16) (s : State) :
    (foldStart seed s).bi = s.bi := rfl
@[simp] theorem foldStart_k (seed : U16) (s : State) :
    (foldStart seed s).k = s.k := rfl
@[simp] theorem foldStart_msgcap (seed : U16) (s : State) :
    (foldStart seed s).msgcap = s.msgcap := rfl
@[simp] theorem foldStart_resetCount (seed : U16) (s : State) :
    (foldStart seed s).resetCount = s.resetCount := rfl
@[simp] theorem foldStart_input (seed : U16) (s : State) :
    (foldStart seed s).input = s.input := rfl
@[simp] theorem foldStart_response (seed : U16) (s : State) :
    (foldStart seed s).response = s.response := rfl

@[simp] theorem foldBody_tbl (src : ByteSource) (s : State) :
    (foldBody src s).tbl = s.tbl := rfl
@[simp] theorem foldBody_sel (src : ByteSource) (s : State) :
    (foldBody src s).sel = s.sel := rfl
@[simp] theorem foldBody_msg (src : ByteSource) (s : State) :
    (foldBody src s).msg = s.msg := rfl
@[simp] theorem foldBody_r (src : ByteSource) (s : State) :
    (foldBody src s).r = s.stepByte s.r (s.nextByte src) := rfl
@[simp] theorem foldBody_basis (src : ByteSource) (s : State) :
    (foldBody src s).basis = s.basis := rfl
@[simp] theorem foldBody_tgt (src : ByteSource) (s : State) :
    (foldBody src s).tgt = s.tgt := rfl
@[simp] theorem foldBody_tv (src : ByteSource) (s : State) :
    (foldBody src s).tv = s.tv := rfl
@[simp] theorem foldBody_cand (src : ByteSource) (s : State) :
    (foldBody src s).cand = s.cand := rfl
@[simp] theorem foldBody_idx (src : ByteSource) (s : State) :
    (foldBody src s).idx = s.idx + 1 := rfl
@[simp] theorem foldBody_bi (src : ByteSource) (s : State) :
    (foldBody src s).bi = s.bi := rfl
@[simp] theorem foldBody_k (src : ByteSource) (s : State) :
    (foldBody src s).k = s.k := rfl
@[simp] theorem foldBody_msgcap (src : ByteSource) (s : State) :
    (foldBody src s).msgcap = s.msgcap := rfl
@[simp] theorem foldBody_resetCount (src : ByteSource) (s : State) :
    (foldBody src s).resetCount = s.resetCount := rfl
@[simp] theorem foldBody_input (src : ByteSource) (s : State) :
    (foldBody src s).input = s.input := rfl
@[simp] theorem foldBody_response (src : ByteSource) (s : State) :
    (foldBody src s).response = s.response := rfl

@[simp] theorem basisStart_tbl (s : State) :
    (basisStart s).tbl = s.tbl := rfl
@[simp] theorem basisStart_sel (s : State) :
    (basisStart s).sel = s.sel := rfl
@[simp] theorem basisStart_msg (s : State) :
    (basisStart s).msg = s.msg := rfl
@[simp] theorem basisStart_r (s : State) :
    (basisStart s).r = s.r := rfl
@[simp] theorem basisStart_basis (s : State) :
    (basisStart s).basis = s.basis := rfl
@[simp] theorem basisStart_tgt (s : State) :
    (basisStart s).tgt = s.tgt := rfl
@[simp] theorem basisStart_tv (s : State) :
    (basisStart s).tv = s.tv := rfl
@[simp] theorem basisStart_cand (s : State) :
    (basisStart s).cand = s.cand := rfl
@[simp] theorem basisStart_idx (s : State) :
    (basisStart s).idx = s.idx := rfl
@[simp] theorem basisStart_bi (s : State) :
    (basisStart s).bi = 0 := rfl
@[simp] theorem basisStart_k (s : State) :
    (basisStart s).k = s.k := rfl
@[simp] theorem basisStart_msgcap (s : State) :
    (basisStart s).msgcap = s.msgcap := rfl
@[simp] theorem basisStart_resetCount (s : State) :
    (basisStart s).resetCount = s.resetCount := rfl
@[simp] theorem basisStart_input (s : State) :
    (basisStart s).input = s.input := rfl
@[simp] theorem basisStart_response (s : State) :
    (basisStart s).response = s.response := rfl

@[simp] theorem storeBasis_tbl (i : Fin 16) (s : State) :
    (storeBasis i s).tbl = s.tbl := rfl
@[simp] theorem storeBasis_sel (i : Fin 16) (s : State) :
    (storeBasis i s).sel = s.sel := rfl
@[simp] theorem storeBasis_msg (i : Fin 16) (s : State) :
    (storeBasis i s).msg = s.msg := rfl
@[simp] theorem storeBasis_r (i : Fin 16) (s : State) :
    (storeBasis i s).r = s.r := rfl
@[simp] theorem storeBasis_basis (i : Fin 16) (s : State) :
    (storeBasis i s).basis = s.basis.set i s.r := rfl
@[simp] theorem storeBasis_tgt (i : Fin 16) (s : State) :
    (storeBasis i s).tgt = s.tgt := rfl
@[simp] theorem storeBasis_tv (i : Fin 16) (s : State) :
    (storeBasis i s).tv = s.tv := rfl
@[simp] theorem storeBasis_cand (i : Fin 16) (s : State) :
    (storeBasis i s).cand = s.cand := rfl
@[simp] theorem storeBasis_idx (i : Fin 16) (s : State) :
    (storeBasis i s).idx = s.idx := rfl
@[simp] theorem storeBasis_bi (i : Fin 16) (s : State) :
    (storeBasis i s).bi = s.bi + 1 := rfl
@[simp] theorem storeBasis_k (i : Fin 16) (s : State) :
    (storeBasis i s).k = s.k := rfl
@[simp] theorem storeBasis_msgcap (i : Fin 16) (s : State) :
    (storeBasis i s).msgcap = s.msgcap := rfl
@[simp] theorem storeBasis_resetCount (i : Fin 16) (s : State) :
    (storeBasis i s).resetCount = s.resetCount := rfl
@[simp] theorem storeBasis_input (i : Fin 16) (s : State) :
    (storeBasis i s).input = s.input := rfl
@[simp] theorem storeBasis_response (i : Fin 16) (s : State) :
    (storeBasis i s).response = s.response := rfl

@[simp] theorem searchStart_tbl (target : U16) (s : State) :
    (searchStart target s).tbl = s.tbl := rfl
@[simp] theorem searchStart_sel (target : U16) (s : State) :
    (searchStart target s).sel = s.sel := rfl
@[simp] theorem searchStart_msg (target : U16) (s : State) :
    (searchStart target s).msg = s.msg := rfl
@[simp] theorem searchStart_r (target : U16) (s : State) :
    (searchStart target s).r = s.r := rfl
@[simp] theorem searchStart_basis (target : U16) (s : State) :
    (searchStart target s).basis = s.basis := rfl
@[simp] theorem searchStart_tgt (target : U16) (s : State) :
    (searchStart target s).tgt = target := rfl
@[simp] theorem searchStart_tv (target : U16) (s : State) :
    (searchStart target s).tv = 0x0000 := rfl
@[simp] theorem searchStart_cand (target : U16) (s : State) :
    (searchStart target s).cand = 0x0000 := rfl
@[simp] theorem searchStart_idx (target : U16) (s : State) :
    (searchStart target s).idx = s.idx := rfl
@[simp] theorem searchStart_bi (target : U16) (s : State) :
    (searchStart target s).bi = s.bi := rfl
@[simp] theorem searchStart_k (target : U16) (s : State) :
    (searchStart target s).k = 0 := rfl
@[simp] theorem searchStart_msgcap (target : U16) (s : State) :
    (searchStart target s).msgcap = s.msgcap := rfl
@[simp] theorem searchStart_resetCount (target : U16) (s : State) :
    (searchStart target s).resetCount = s.resetCount := rfl
@[simp] theorem searchStart_input (target : U16) (s : State) :
    (searchStart target s).input = s.input := rfl
@[simp] theorem searchStart_response (target : U16) (s : State) :
    (searchStart target s).response = s.response := rfl

@[simp] theorem searchBody_tbl (s : State) :
    (searchBody s).tbl = s.tbl := rfl
@[simp] theorem searchBody_sel (s : State) :
    (searchBody s).sel = s.sel := rfl
@[simp] theorem searchBody_msg (s : State) :
    (searchBody s).msg = s.msg := rfl
@[simp] theorem searchBody_r (s : State) :
    (searchBody s).r = s.r := rfl
@[simp] theorem searchBody_basis (s : State) :
    (searchBody s).basis = s.basis := rfl
@[simp] theorem searchBody_tgt (s : State) :
    (searchBody s).tgt = s.tgt := rfl
@[simp] theorem searchBody_tv (s : State) :
    (searchBody s).tv = s.tv ^^^ s.basisRead (toggle (s.k + 1)) := rfl
@[simp] theorem searchBody_cand (s : State) :
    (searchBody s).cand = s.cand ^^^ s.selRead (toggle (s.k + 1)) := rfl
@[simp] theorem searchBody_idx (s : State) :
    (searchBody s).idx = s.idx := rfl
@[simp] theorem searchBody_bi (s : State) :
    (searchBody s).bi = s.bi := rfl
@[simp] theorem searchBody_k (s : State) :
    (searchBody s).k = s.k + 1 := rfl
@[simp] theorem searchBody_msgcap (s : State) :
    (searchBody s).msgcap = s.msgcap := rfl
@[simp] theorem searchBody_resetCount (s : State) :
    (searchBody s).resetCount = s.resetCount := rfl
@[simp] theorem searchBody_input (s : State) :
    (searchBody s).input = s.input := rfl
@[simp] theorem searchBody_response (s : State) :
    (searchBody s).response = s.response := rfl

@[simp] theorem loadDelta_tbl (ecrc : U16) (s : State) :
    (loadDelta ecrc s).tbl = s.tbl := rfl
@[simp] theorem loadDelta_sel (ecrc : U16) (s : State) :
    (loadDelta ecrc s).sel = s.sel := rfl
@[simp] theorem loadDelta_msg (ecrc : U16) (s : State) :
    (loadDelta ecrc s).msg = s.msg := rfl
@[simp] theorem loadDelta_r (ecrc : U16) (s : State) :
    (loadDelta ecrc s).r = s.r := rfl
@[simp] theorem loadDelta_basis (ecrc : U16) (s : State) :
    (loadDelta ecrc s).basis = s.basis := rfl
@[simp] theorem loadDelta_tgt (ecrc : U16) (s : State) :
    (loadDelta ecrc s).tgt = s.r ^^^ ecrc := rfl
@[simp] theorem loadDelta_tv (ecrc : U16) (s : State) :
    (loadDelta ecrc s).tv = s.tv := rfl
@[simp] theorem loadDelta_cand (ecrc : U16) (s : State) :
    (loadDelta ecrc s).cand = s.cand := rfl
@[simp] theorem loadDelta_idx (ecrc : U16) (s : State) :
    (loadDelta ecrc s).idx = s.idx := rfl
@[simp] theorem loadDelta_bi (ecrc : U16) (s : State) :
    (loadDelta ecrc s).bi = s.bi := rfl
@[simp] theorem loadDelta_k (ecrc : U16) (s : State) :
    (loadDelta ecrc s).k = s.k := rfl
@[simp] theorem loadDelta_msgcap (ecrc : U16) (s : State) :
    (loadDelta ecrc s).msgcap = s.msgcap := rfl
@[simp] theorem loadDelta_resetCount (ecrc : U16) (s : State) :
    (loadDelta ecrc s).resetCount = s.resetCount := rfl
@[simp] theorem loadDelta_input (ecrc : U16) (s : State) :
    (loadDelta ecrc s).input = s.input := rfl
@[simp] theorem loadDelta_response (ecrc : U16) (s : State) :
    (loadDelta ecrc s).response = s.response := rfl

@[simp] theorem State.withFetchWord_tbl (s : State) (nbits w : Nat) :
    (s.withFetchWord nbits w).tbl = s.tbl := rfl
@[simp] theorem State.withFetchWord_sel (s : State) (nbits w : Nat) :
    (s.withFetchWord nbits w).sel = s.sel := rfl
@[simp] theorem State.withFetchWord_msg (s : State) (nbits w : Nat) :
    (s.withFetchWord nbits w).msg = s.msg := rfl
@[simp] theorem State.withFetchWord_r (s : State) (nbits w : Nat) :
    (s.withFetchWord nbits w).r = s.r := rfl
@[simp] theorem State.withFetchWord_basis (s : State) (nbits w : Nat) :
    (s.withFetchWord nbits w).basis = s.basis := rfl
@[simp] theorem State.withFetchWord_tgt (s : State) (nbits w : Nat) :
    (s.withFetchWord nbits w).tgt = s.tgt := rfl
@[simp] theorem State.withFetchWord_tv (s : State) (nbits w : Nat) :
    (s.withFetchWord nbits w).tv = s.tv := rfl
@[simp] theorem State.withFetchWord_cand (s : State) (nbits w : Nat) :
    (s.withFetchWord nbits w).cand = s.cand := rfl
@[simp] theorem State.withFetchWord_idx (s : State) (nbits w : Nat) :
    (s.withFetchWord nbits w).idx = s.idx := rfl
@[simp] theorem State.withFetchWord_bi (s : State) (nbits w : Nat) :
    (s.withFetchWord nbits w).bi = s.bi := rfl
@[simp] theorem State.withFetchWord_k (s : State) (nbits w : Nat) :
    (s.withFetchWord nbits w).k = s.k := rfl
@[simp] theorem State.withFetchWord_msgcap (s : State) (nbits w : Nat) :
    (s.withFetchWord nbits w).msgcap = s.msgcap := rfl
@[simp] theorem State.withFetchWord_resetCount (s : State) (nbits w : Nat) :
    (s.withFetchWord nbits w).resetCount = s.resetCount := rfl
@[simp] theorem State.withFetchWord_input (s : State) (nbits w : Nat) :
    (s.withFetchWord nbits w).input = .command (tableWord nbits w) :: s.input := rfl
@[simp] theorem State.withFetchWord_response (s : State) (nbits w : Nat) :
    (s.withFetchWord nbits w).response = s.response := rfl

end Sys2Proof.Machine
end

