-- ==== Sys2Proof/Laws/Memory.lean ====
section
/-! SUPPORT. The laws of the message buffer: a read after a write, and that a write keeps the canonical form and the
bounds. -/

namespace Sys2Proof.Machine

set_option Elab.async false

/-- The byte written at `a` is the one found there; no other address is touched. -/
theorem Memory.find_put (m : Memory) (a b : Nat) (v : Byte) :
    (m.put a v).find b = if b = a then some v else m.find b := by
  induction m with
  | nil => simp only [Memory.put, Memory.find]; grind
  | cons c m ih =>
    obtain ⟨x, w⟩ := c
    simp only [Memory.put]
    split_ifs <;> simp only [Memory.find, *] <;> grind

@[simp] theorem Memory.find_put_self (m : Memory) (a : Nat) (v : Byte) : (m.put a v).find a = some v := by
  simp [Memory.find_put]

theorem Memory.find_put_of_ne (m : Memory) {a b : Nat} (v : Byte) (h : b ≠ a) : (m.put a v).find b = m.find b := by
  simp [Memory.find_put, h]

/-- The cells after a write are the one written and some of those before. -/
theorem Memory.mem_put {m : Memory} {a : Nat} {v : Byte} {c : Host.Cell} (h : c ∈ m.put a v) : c = (a, v) ∨ c ∈ m := by
  induction m with
  | nil => simpa [Memory.put] using h
  | cons d m ih =>
    obtain ⟨x, w⟩ := d
    simp only [Memory.put] at h
    split_ifs at h <;> simp only [List.mem_cons] at h ⊢ <;> grind

/-- A write keeps the addresses strictly rising. -/
theorem Memory.wf_put {m : Memory} (h : m.wf) (a : Nat) (v : Byte) : (m.put a v).wf := by
  induction m with
  | nil => simp [Memory.put, Memory.wf]
  | cons d m ih =>
    obtain ⟨x, w⟩ := d
    have hm := List.pairwise_cons.mp h
    simp only [Memory.put]
    split_ifs with h1 h2
    · refine List.pairwise_cons.mpr ⟨fun c hc => ?_, h⟩
      rcases List.mem_cons.mp hc with rfl | hc
      · exact h1
      · exact h1.trans (hm.1 c hc)
    · subst h2; exact List.pairwise_cons.mpr ⟨hm.1, hm.2⟩
    · refine List.pairwise_cons.mpr ⟨fun c hc => ?_, ih hm.2⟩
      rcases Memory.mem_put hc with rfl | hc
      · exact lt_of_le_of_ne (not_lt.mp h1) (Ne.symm h2)
      · exact hm.1 c hc

@[simp] theorem reset_msg_wf : Memory.wf State.reset.msg := List.Pairwise.nil

/-- What every address reads as after one byte is written. -/
theorem memByte_memWrite (s : State) (a : U32) (v : Byte) (b : Nat) :
    (s.memWrite a v).memByte b = if b = a.toNat then v else s.memByte b := by
  simp only [State.memByte, State.memWrite_msg, State.memWrite_resetCount, Memory.find_put]
  split_ifs <;> rfl

/-- `MSG` reads as it did wherever neither the buffer nor its unspecified contents changed. -/
theorem memByte_congr {s t : State} (hm : t.msg = s.msg) (hc : t.resetCount = s.resetCount) : t.memByte = s.memByte := by
  funext a; simp only [State.memByte, hm, hc]

theorem message_congr {s t : State} (h : t.memByte = s.memByte) : t.message = s.message := by
  funext n; simp only [State.message, h]

/-- A written byte reads as what was written, whatever the unspecified contents are. -/
theorem memByte_of_written {s : State} {a : Nat} {v : Byte} (h : s.msg.find a = some v) : s.memByte a = v := by
  simp [State.memByte, h]

@[simp] theorem length_message (s : State) (n : Nat) : (s.message n).length = n := by simp [State.message]

@[simp] theorem message_zero (s : State) : s.message 0 = [] := rfl

theorem message_succ (s : State) (n : Nat) : s.message (n + 1) = s.message n ++ [s.memByte n] := by
  simp [State.message, List.range_succ]

end Sys2Proof.Machine
end

