-- ==== Sys2Proof/Laws/Words.lean ====
section
/-! SUPPORT. The fields of a command word (R60) and of a response word (R61) read back what was put into them. -/

namespace Sys2Proof

set_option Elab.async false

@[simp] theorem cwOp_commandWord (op rsv : Byte) (arg : U16) (len : U32) : cwOp (commandWord op rsv arg len) = op := by
  ext i hi
  simp only [cwOp, commandWord, BitVec.getElem_extractLsb', BitVec.getLsbD_append]
  grind

@[simp] theorem cwRsv_commandWord (op rsv : Byte) (arg : U16) (len : U32) :
    cwRsv (commandWord op rsv arg len) = rsv := by
  ext i hi
  simp only [cwRsv, commandWord, BitVec.getElem_extractLsb', BitVec.getLsbD_append]
  grind

@[simp] theorem cwArg_commandWord (op rsv : Byte) (arg : U16) (len : U32) :
    cwArg (commandWord op rsv arg len) = arg := by
  ext i hi
  simp only [cwArg, commandWord, BitVec.getElem_extractLsb', BitVec.getLsbD_append]
  grind

@[simp] theorem cwLen_commandWord (op rsv : Byte) (arg : U16) (len : U32) :
    cwLen (commandWord op rsv arg len) = len := by
  ext i hi
  simp only [cwLen, commandWord, BitVec.getElem_extractLsb', BitVec.getLsbD_append]
  grind

@[simp] theorem cwArgHi_commandWord (op rsv : Byte) (arg : U16) (len : U32) :
    cwArgHi (commandWord op rsv arg len) = hiByte arg := by
  ext i hi
  simp only [cwArgHi, hiByte, commandWord, BitVec.getElem_extractLsb', BitVec.getLsbD_append]
  grind

@[simp] theorem cwArgLo_commandWord (op rsv : Byte) (arg : U16) (len : U32) :
    cwArgLo (commandWord op rsv arg len) = loByte arg := by
  ext i hi
  simp only [cwArgLo, loByte, commandWord, BitVec.getElem_extractLsb', BitVec.getLsbD_append]
  grind

@[simp] theorem hiByte_zext16 (b : Byte) : hiByte (zext16 b) = 0 := by
  ext i hi
  simp only [hiByte, zext16, BitVec.getElem_extractLsb', BitVec.getLsbD_setWidth]
  simp

@[simp] theorem loByte_zext16 (b : Byte) : loByte (zext16 b) = b := by
  ext i hi
  simp only [loByte, zext16, BitVec.getElem_extractLsb', BitVec.getLsbD_setWidth]
  grind

/-- A word is its four fields put together (R60). -/
theorem commandWord_fields (cw : U64) : commandWord (cwOp cw) (cwRsv cw) (cwArg cw) (cwLen cw) = cw := by
  ext i hi
  simp only [commandWord, cwOp, cwRsv, cwArg, cwLen]
  grind

end Sys2Proof

namespace Sys2Proof.Machine

@[simp] theorem rwValue_responseWord (st : Status) (f : Bool) (v : U16) : rwValue (responseWord st f v) = v := by
  ext i hi
  simp only [rwValue, responseWord, BitVec.getElem_extractLsb', BitVec.getLsbD_append]
  grind

@[simp] theorem rwStatus_responseWord (st : Status) (f : Bool) (v : U16) :
    rwStatus (responseWord st f v) = st.code := by
  ext i hi
  simp only [rwStatus, responseWord, BitVec.getElem_extractLsb', BitVec.getLsbD_append]
  grind

@[simp] theorem rwZero_responseWord (st : Status) (f : Bool) (v : U16) : rwZero (responseWord st f v) = 0 := by
  ext i hi
  simp only [rwZero, responseWord, BitVec.getElem_extractLsb', BitVec.getLsbD_append]
  grind

@[simp] theorem rwFound_responseWord (st : Status) (f : Bool) (v : U16) : rwFound (responseWord st f v) = f := by
  simp only [rwFound, responseWord, BitVec.getLsbD_append]
  cases f <;> simp [foundBit]

end Sys2Proof.Machine
end

