-- ==== Sys2Proof/Laws/Engine.lean ====
section
/-! SUPPORT. What the fold loop does: everything it writes, and the value it leaves in `R` when the tables hold their
constants. -/

namespace Sys2Proof.Machine

set_option Elab.async false

/-- Entry `k` of the table's contents is `tblgen k` (R82). -/
theorem crcTable_get (k : Byte) : crcTable.get k.toFin = tblgen k := by
  simp [crcTable, Vector.get_eq_getElem]

/-- Over the constants of R82 the block's step is the function of R90. -/
theorem stepByte_eq {s : State} (h : s.tbl = crcTable) (r : U16) (b : Byte) : s.stepByte r b = bytestep r b := by
  simp only [State.stepByte, State.tblRead, bytestep, h]

/-- A fold loop writes `R` and `IDX` and nothing else (R92, R94). -/
theorem foldLoop_writes (src : ByteSource) (len : U32) (n : Nat) (s : State) :
    foldLoop src len n s = { s with r := (foldLoop src len n s).r, idx := (foldLoop src len n s).idx } := by
  induction n generalizing s with
  | zero => rfl
  | succ n ih =>
    rw [foldLoop]
    split_ifs
    · conv_lhs => rw [ih]
      rfl
    · rfl

/-- The counter of a pass that runs has not reached `L`, so it does not wrap (R24). -/
theorem idx_succ_toNat {x len : U32} (h : x < len) : (x + 1).toNat = x.toNat + 1 := by
  have h1 := len.isLt
  have h2 : x.toNat < len.toNat := h
  rw [BitVec.toNat_add, show (1 : U32).toNat = 1 from rfl]
  omega

/-- With a pass of fuel for each byte still to come the loop ends with `IDX = L` (R24, R184). -/
theorem foldLoop_idx (src : ByteSource) (len : U32) (n : Nat) (s : State) (h : s.idx.toNat + n = len.toNat) :
    (foldLoop src len n s).idx = len := by
  induction n generalizing s with
  | zero => exact BitVec.eq_of_toNat_eq h
  | succ n ih =>
    have hlt : s.idx < len := BitVec.lt_def.mpr (by omega)
    rw [foldLoop, if_pos hlt]
    exact ih (foldBody src s) (by rw [foldBody_idx, idx_succ_toNat hlt]; omega)

/-- The zero-byte loop leaves the prefix function of `R` in `R` (R93, R94). -/
theorem foldLoop_zeros_r (len : U32) (n : Nat) (s : State) (ht : s.tbl = crcTable) (h : s.idx.toNat + n = len.toNat) :
    (foldLoop .zeros len n s).r = prefixfn s.r n := by
  induction n generalizing s with
  | zero => rfl
  | succ n ih =>
    have hlt : s.idx < len := BitVec.lt_def.mpr (by omega)
    rw [foldLoop, if_pos hlt, ih (foldBody _ s) ht (by rw [foldBody_idx, idx_succ_toNat hlt]; omega), foldBody_r, stepByte_eq ht]
    rfl

/-- The buffer loop leaves the CRC of the bytes from `IDX` to `L - 1` in `R` (R91, R92). -/
theorem foldLoop_buffer_r (len : U32) (n : Nat) (s : State) (ht : s.tbl = crcTable) (h : s.idx.toNat + n = len.toNat) :
    (foldLoop .buffer len n s).r = crc16 s.r ((List.range' s.idx.toNat n).map s.memByte) := by
  induction n generalizing s with
  | zero => rfl
  | succ n ih =>
    have hlt : s.idx < len := BitVec.lt_def.mpr (by omega)
    have hm : (foldBody .buffer s).memByte = s.memByte := rfl
    rw [foldLoop, if_pos hlt, ih (foldBody _ s) ht (by rw [foldBody_idx, idx_succ_toNat hlt]; omega), foldBody_r, foldBody_idx,
      idx_succ_toNat hlt, stepByte_eq ht, hm]
    rfl

/-- A fold's loop starts with `IDX = 0` and a pass of fuel for each of the `L` bytes. -/
theorem foldStart_fuel (seed : U16) (len : U32) (s : State) : (foldStart seed s).idx.toNat + len.toNat = len.toNat :=
  Nat.zero_add _

/-- Everything a fold does, whatever the tables hold: `R` and `IDX` alone change, and `IDX` ends at `L`. -/
theorem fold_writes (src : ByteSource) (seed : U16) (len : U32) (s : State) :
    fold src seed len s = { s with r := (fold src seed len s).r, idx := len } := by
  conv_lhs => rw [fold, foldLoop_writes, foldLoop_idx _ _ _ _ (foldStart_fuel seed len s)]
  rfl

/-- The fold of zero bytes (R94). -/
theorem fold_zeros {s : State} (h : s.tbl = crcTable) (seed : U16) (len : U32) :
    fold .zeros seed len s = { s with r := prefixfn seed len.toNat, idx := len } := by
  rw [fold_writes, fold, foldLoop_zeros_r _ _ (foldStart seed s) h (foldStart_fuel seed len s)]
  rfl

/-- The fold of the message (R92). -/
theorem fold_buffer {s : State} (h : s.tbl = crcTable) (seed : U16) (len : U32) :
    fold .buffer seed len s = { s with r := crc16 seed (s.message len.toNat), idx := len } := by
  rw [fold_writes, fold, foldLoop_buffer_r _ _ (foldStart seed s) h (foldStart_fuel seed len s)]
  simp only [State.message, List.range_eq_range']
  rfl

end Sys2Proof.Machine
end

