-- ==== Sys2Proof/Laws/PerInstr.lean ====
section
/-! SUPPORT. What holds of each command as syntax, one lemma per constructor. -/

namespace Sys2Proof.Laws.EncodedHeader

/-- The encoded word carries the command's opcode of R63 in `OP`, and nothing in the reserved byte. -/
def Statement (i : Instr) : Prop := cwOp (encode i) = opcode i ∧ cwRsv (encode i) = 0x00

theorem wrmsg (a : U32) (byte : Byte) : Statement (.wrmsg a byte) := by simp [Statement, encode]

theorem rdmsg (a : U32) : Statement (.rdmsg a) := by simp [Statement, encode]

theorem crc16 (seed : U16) (len : U32) : Statement (.crc16 seed len) := by simp [Statement, encode]

theorem prefixCrc (seed : U16) (len : U32) : Statement (.prefixCrc seed len) := by simp [Statement, encode]

theorem findpfx (len : U32) (target : U16) : Statement (.findpfx len target) := by simp [Statement, encode]

theorem recover (len : U32) (ecrc : U16) : Statement (.recover len ecrc) := by simp [Statement, encode]

end Sys2Proof.Laws.EncodedHeader
end

