-- ==== Sys2Proof/Laws/Solver.lean ====
section
/-! SUPPORT. What the two phases of the solver do: everything the basis loop writes and the values it leaves, and
everything the search writes and how it can end. -/

namespace Sys2Proof.Machine

set_option Elab.async false

/-! ### The basis (R111) -/

/-- The result of a zero-byte fold depends on the state through `TBL` alone. -/
theorem foldLoop_zeros_congr (len : U32) (n : Nat) {s t : State} (ht : s.tbl = t.tbl) (hr : s.r = t.r)
    (hi : s.idx = t.idx) : (foldLoop .zeros len n s).r = (foldLoop .zeros len n t).r := by
  induction n generalizing s t with
  | zero => exact hr
  | succ n ih =>
    rw [foldLoop, foldLoop, hi]
    split_ifs
    · refine ih (s := foldBody .zeros s) (t := foldBody .zeros t) ht ?_ ?_
      · simp only [foldBody_r, State.stepByte, State.tblRead, State.nextByte, ht, hr]
      · simp only [foldBody_idx, hi]
    · exact hr

theorem fold_zeros_congr {s t : State} (ht : s.tbl = t.tbl) (seed : U16) (len : U32) :
    (fold .zeros seed len s).r = (fold .zeros seed len t).r :=
  foldLoop_zeros_congr len _ (s := foldStart seed s) (t := foldStart seed t) ht rfl rfl

/-- While `BI < 16` its low four bits are all of it. -/
theorem basisIndex_val {s : State} (h : s.bi < 16#5) : s.basisIndex.val = s.bi.toNat := by
  have h2 : s.bi.toNat < 16 := h
  show (s.bi.setWidth 4).toNat = _
  rw [BitVec.toNat_setWidth]; omega

theorem bi_succ_toNat {x : BitVec 5} (h : x < 16#5) : (x + 1).toNat = x.toNat + 1 := by
  have h2 : x.toNat < 16 := h
  rw [BitVec.toNat_add, show (1 : BitVec 5).toNat = 1 from rfl]; omega

/-- One pass in full: the fold of zero bytes, its result in `BASIS[BI]`, and `BI` one up. -/
theorem basisBody_eq (len : U32) (s : State) :
    basisBody len s =
      { s with
        r := (fold .zeros (s.selRead s.basisIndex) len s).r
        idx := len
        basis := s.basis.set s.basisIndex (fold .zeros (s.selRead s.basisIndex) len s).r
        bi := s.bi + 1 } := by
  conv_lhs => rw [basisBody, fold_writes]
  rfl

/-- What the basis loop leaves in entry `i`: the fold from `SEL[i]` if the loop reached it, else what was there. -/
theorem basisLoop_basis (len : U32) (n : Nat) (s : State) (h : s.bi.toNat + n = 16) (i : Fin 16) :
    (basisLoop len n s).basis.get i =
      if s.bi.toNat ≤ i.val then (fold .zeros (s.selRead i) len s).r else s.basis.get i := by
  induction n generalizing s with
  | zero => rw [if_neg (by omega)]; rfl
  | succ n ih =>
    have hlt : s.bi < 16#5 := BitVec.lt_def.mpr (show s.bi.toNat < 16 by omega)
    have hb := basisBody_eq len s
    have hbi : (basisBody len s).bi = s.bi + 1 := by rw [hb]
    have htbl : (basisBody len s).tbl = s.tbl := by rw [hb]
    have hsel : (basisBody len s).sel = s.sel := by rw [hb]
    have hv := basisIndex_val hlt
    rw [basisLoop, if_pos hlt, ih (basisBody len s) (by rw [hbi, bi_succ_toNat hlt]; omega), hbi, bi_succ_toNat hlt]
    have hbasis : (basisBody len s).basis = s.basis.set s.basisIndex (fold .zeros (s.selRead s.basisIndex) len s).r := by
      rw [hb]
    rcases lt_trichotomy s.bi.toNat i.val with hc | hc | hc
    · rw [if_pos (by omega), if_pos (by omega), fold_zeros_congr htbl]
      simp only [State.selRead, hsel]
    · have hi : s.basisIndex = i := Fin.ext (hv.trans hc)
      subst hi
      rw [if_neg (by omega), if_pos (by omega), hbasis]
      simp [Vector.get_eq_getElem]
    · rw [if_neg (by omega), if_neg (by omega), hbasis]
      simp only [Vector.get_eq_getElem]
      exact Vector.getElem_set_ne _ _ (by omega)

/-- The basis loop writes `R`, `IDX`, `BASIS` and `BI` and nothing else; the last three end as R111 says. -/
theorem basisLoop_writes (len : U32) (n : Nat) (s : State) (h : s.bi.toNat + n = 16) :
    basisLoop len n s =
      { s with
        r := (basisLoop len n s).r
        idx := (basisLoop len n s).idx
        basis := (basisLoop len n s).basis
        bi := 16#5 } := by
  induction n generalizing s with
  | zero =>
    have : s.bi = 16#5 := BitVec.eq_of_toNat_eq h
    rw [← this]; rfl
  | succ n ih =>
    have hlt : s.bi < 16#5 := BitVec.lt_def.mpr (show s.bi.toNat < 16 by omega)
    have hb := basisBody_eq len s
    have hbi : (basisBody len s).bi = s.bi + 1 := by rw [hb]
    rw [basisLoop, if_pos hlt]
    conv_lhs => rw [ih (basisBody len s) (by rw [hbi, bi_succ_toNat hlt]; omega)]
    rw [hb]

/-- The loop leaves the last entry's fold in `R` and `L` in `IDX`. -/
theorem basisLoop_last (len : U32) (n : Nat) (s : State) (h : s.bi.toNat + (n + 1) = 16) :
    (basisLoop len (n + 1) s).r = (fold .zeros (s.selRead 15) len s).r ∧ (basisLoop len (n + 1) s).idx = len := by
  induction n generalizing s with
  | zero =>
    have hlt : s.bi < 16#5 := BitVec.lt_def.mpr (show s.bi.toNat < 16 by omega)
    have hi : s.basisIndex = 15 := Fin.ext ((basisIndex_val hlt).trans (by show _ = 15; omega))
    rw [basisLoop, if_pos hlt, basisLoop, basisBody_eq]
    simp only [hi, and_self]
  | succ n ih =>
    have hlt : s.bi < 16#5 := BitVec.lt_def.mpr (show s.bi.toNat < 16 by omega)
    have hb := basisBody_eq len s
    have hbi : (basisBody len s).bi = s.bi + 1 := by rw [hb]
    have htbl : (basisBody len s).tbl = s.tbl := by rw [hb]
    have hsel : (basisBody len s).sel = s.sel := by rw [hb]
    rw [basisLoop, if_pos hlt]
    refine ⟨?_, (ih (basisBody len s) (by rw [hbi, bi_succ_toNat hlt]; omega)).2⟩
    rw [(ih (basisBody len s) (by rw [hbi, bi_succ_toNat hlt]; omega)).1, fold_zeros_congr htbl]
    simp only [State.selRead, hsel]

/-- Everything `build_basis` does, whatever the tables hold: these four registers change, and only these. -/
theorem buildBasis_writes (len : U32) (s : State) :
    buildBasis len s =
      { s with
        r := (fold .zeros (s.selRead 15) len s).r
        idx := len
        basis := (buildBasis len s).basis
        bi := 16#5 } := by
  have hl := basisLoop_last len 15 (basisStart s) rfl
  have hr : (fold .zeros ((basisStart s).selRead 15) len (basisStart s)).r = (fold .zeros (s.selRead 15) len s).r :=
    fold_zeros_congr (basisStart_tbl s) (s.selRead 15) len
  conv_lhs => rw [buildBasis, Config.nb, basisLoop_writes len 16 (basisStart s) rfl, hl.1, hl.2, hr]
  rfl

/-- Each entry is the fold of zero bytes from its selector. -/
theorem buildBasis_basis (len : U32) (s : State) (i : Fin 16) :
    (buildBasis len s).basis.get i = (fold .zeros (s.selRead i) len s).r := by
  rw [buildBasis, Config.nb, basisLoop_basis len 16 (basisStart s) rfl, if_pos (show (basisStart s).bi.toNat ≤ i.val from Nat.zero_le _)]
  exact fold_zeros_congr (basisStart_tbl s) (s.selRead i) len

@[simp] theorem selTable_get (i : Fin 16) : selTable.get i = selBit i := by
  revert i; decide

theorem basisTable_get (len : Nat) (i : Fin 16) : (basisTable len).get i = prefixfn (selBit i) len := by
  have hi : Fin.ofNat 16 i.val = i := Fin.ext (Nat.mod_eq_of_lt i.isLt)
  conv_rhs => rw [← hi]
  simp [basisTable, Vector.get_eq_getElem]

/-- Everything `build_basis` does over the constant tables (R111). -/
theorem buildBasis_eq {s : State} (h : s.tablesOk) (len : U32) :
    buildBasis len s =
      { s with
        r := prefixfn (selBit 15) len.toNat
        idx := len
        basis := basisTable len.toNat
        bi := 16#5 } := by
  have hv : ∀ i, (fold .zeros (s.selRead i) len s).r = prefixfn (selBit i) len.toNat := fun i => by
    rw [fold_zeros h.1, State.selRead, h.2, selTable_get]
  have hb : (buildBasis len s).basis = basisTable len.toNat := by
    refine Vector.ext fun i hi => ?_
    exact (buildBasis_basis len s ⟨i, hi⟩).trans ((hv ⟨i, hi⟩).trans (basisTable_get _ ⟨i, hi⟩).symm)
  rw [buildBasis_writes, hv, hb]

/-! ### The search (R113) -/

/-- The search writes `K`, `TV` and `CAND` and nothing else, once it has started. -/
theorem searchLoop_writes (n : Nat) (s : State) :
    (searchLoop n s).1 =
      { s with
        k := (searchLoop n s).1.k
        tv := (searchLoop n s).1.tv
        cand := (searchLoop n s).1.cand } := by
  induction n generalizing s with
  | zero => rfl
  | succ n ih =>
    simp only [searchLoop]
    split_ifs
    · rfl
    · conv_lhs => rw [ih]
      rfl
    · rfl

/-- How a search can end: on a match, with the candidate as its value, or with the sentinel. -/
theorem searchLoop_cases (n : Nat) (s : State) :
    ((searchLoop n s).2 = ⟨(searchLoop n s).1.cand, true⟩ ∧ (searchLoop n s).1.tv = s.tgt) ∨
      (searchLoop n s).2 = ⟨Config.sentinel, false⟩ := by
  induction n generalizing s with
  | zero => exact .inr rfl
  | succ n ih =>
    simp only [searchLoop]
    split_ifs with h1 h2
    · exact .inl ⟨rfl, h2⟩
    · exact ih (searchBody s)
    · exact .inr rfl

/-- Everything a search does: `TGT` is loaded, and `K`, `TV` and `CAND` are its own. -/
theorem search_writes (target : U16) (s : State) :
    (search target s).1 =
      { s with
        tgt := target
        tv := (search target s).1.tv
        cand := (search target s).1.cand
        k := (search target s).1.k } := by
  conv_lhs => rw [search, searchLoop_writes]
  rfl

theorem search_cases (target : U16) (s : State) :
    ((search target s).2 = ⟨(search target s).1.cand, true⟩ ∧ (search target s).1.tv = target) ∨
      (search target s).2 = ⟨Config.sentinel, false⟩ :=
  searchLoop_cases Config.nstep (searchStart target s)

end Sys2Proof.Machine
end

