-- ==== Sys2Proof/Laws/Step.lean ====
section
/-! SUPPORT. What a command and what a step can do, said once. -/

namespace Sys2Proof.Machine

set_option Elab.async false

theorem beyondBuffer_iff (s : State) (a : U32) : s.beyondBuffer a = true ↔ s.msgcap ≤ a.toNat := by
  simp [State.beyondBuffer]

theorem longerThanBuffer_iff (s : State) (len : U32) : s.longerThanBuffer len = true ↔ s.msgcap < len.toNat := by
  simp [State.longerThanBuffer]

/-! ### Each meaning on either side of its range check -/

theorem execWrmsg_range {s : State} {a : U32} (h : s.msgcap ≤ a.toNat) (byte : Byte) :
    execWrmsg a byte s = s.raise .range := by
  rw [execWrmsg, if_pos ((beyondBuffer_iff s a).mpr h)]

theorem execWrmsg_ok {s : State} {a : U32} (h : a.toNat < s.msgcap) (byte : Byte) :
    execWrmsg a byte s = .next ((s.memWrite a byte).respond .ok false 0x0000) := by
  rw [execWrmsg, if_neg (by rw [beyondBuffer_iff]; omega)]

theorem execRdmsg_range {s : State} {a : U32} (h : s.msgcap ≤ a.toNat) : execRdmsg a s = s.raise .range := by
  rw [execRdmsg, if_pos ((beyondBuffer_iff s a).mpr h)]

theorem execRdmsg_ok {s : State} {a : U32} (h : a.toNat < s.msgcap) :
    execRdmsg a s = .next (s.respond .ok false (zext16 (s.memRead a))) := by
  rw [execRdmsg, if_neg (by rw [beyondBuffer_iff]; omega)]

theorem execCrc16_range {s : State} {len : U32} (h : s.msgcap < len.toNat) (seed : U16) :
    execCrc16 seed len s = s.raise .range := by
  rw [execCrc16, if_pos ((longerThanBuffer_iff s len).mpr h)]

theorem execCrc16_ok {s : State} {len : U32} (h : len.toNat ≤ s.msgcap) (seed : U16) :
    execCrc16 seed len s = .next (respondR (fold .buffer seed len s)) := by
  rw [execCrc16, if_neg (by rw [longerThanBuffer_iff]; omega)]

theorem execRecover_range {s : State} {len : U32} (h : s.msgcap < len.toNat) (ecrc : U16) :
    execRecover len ecrc s = s.raise .range := by
  rw [execRecover, if_pos ((longerThanBuffer_iff s len).mpr h)]

theorem execRecover_ok {s : State} {len : U32} (h : len.toNat ≤ s.msgcap) (ecrc : U16) :
    execRecover len ecrc s = .next (respondSolution (recoverRun len ecrc s)) := by
  rw [execRecover, if_neg (by rw [longerThanBuffer_iff]; omega)]

/-! ### What is common to all six -/

/-- The block's fixed parts and the host's list: what no command changes (R5, R27, R29, R40, R52). -/
structure SameFixed (s t : State) : Prop where
  tbl : t.tbl = s.tbl
  sel : t.sel = s.sel
  msgcap : t.msgcap = s.msgcap
  resetCount : t.resetCount = s.resetCount
  input : t.input = s.input

theorem SameFixed.refl (s : State) : SameFixed s s := ⟨rfl, rfl, rfl, rfl, rfl⟩

theorem SameFixed.trans {s t u : State} (h : SameFixed s t) (g : SameFixed t u) : SameFixed s u :=
  ⟨g.tbl.trans h.tbl, g.sel.trans h.sel, g.msgcap.trans h.msgcap, g.resetCount.trans h.resetCount,
    g.input.trans h.input⟩

theorem fold_fixed (src : ByteSource) (seed : U16) (len : U32) (s : State) : SameFixed s (fold src seed len s) := by
  rw [fold_writes]; exact ⟨rfl, rfl, rfl, rfl, rfl⟩

theorem fold_msg (src : ByteSource) (seed : U16) (len : U32) (s : State) : (fold src seed len s).msg = s.msg := by
  rw [fold_writes]

theorem search_fixed (target : U16) (s : State) : SameFixed s (search target s).1 := by
  rw [search_writes]; exact ⟨rfl, rfl, rfl, rfl, rfl⟩

theorem search_msg (target : U16) (s : State) : (search target s).1.msg = s.msg := by
  rw [search_writes]

theorem buildBasis_fixed (len : U32) (s : State) : SameFixed s (buildBasis len s) := by
  rw [buildBasis_writes]; exact ⟨rfl, rfl, rfl, rfl, rfl⟩

theorem buildBasis_msg (len : U32) (s : State) : (buildBasis len s).msg = s.msg := by
  rw [buildBasis_writes]

theorem solve_fixed (len : U32) (target : U16) (s : State) : SameFixed s (solve len target s).1 :=
  (buildBasis_fixed len s).trans (search_fixed target _)

theorem solve_msg (len : U32) (target : U16) (s : State) : (solve len target s).1.msg = s.msg :=
  (search_msg target _).trans (buildBasis_msg len s)

theorem recoverDelta_fixed (len : U32) (ecrc : U16) (s : State) : SameFixed s (recoverDelta len ecrc s) := by
  rw [recoverDelta, fold_writes]; exact ⟨rfl, rfl, rfl, rfl, rfl⟩

theorem recoverDelta_msg (len : U32) (ecrc : U16) (s : State) : (recoverDelta len ecrc s).msg = s.msg := by
  rw [recoverDelta, fold_writes]; rfl

/-- After phase 0, RECOVER is a solve from the target that phase 0 left: the basis phase does not touch `TGT` (R136). -/
theorem recoverRun_eq_solve (len : U32) (ecrc : U16) (s : State) :
    recoverRun len ecrc s = solve len ((fold .buffer 0x0000 len s).r ^^^ ecrc) (recoverDelta len ecrc s) := by
  have h : (buildBasis len (recoverDelta len ecrc s)).tgt = (fold .buffer 0x0000 len s).r ^^^ ecrc := by
    rw [buildBasis_writes]; rfl
  rw [recoverRun, searchTgt, h]; rfl

theorem recoverRun_fixed (len : U32) (ecrc : U16) (s : State) : SameFixed s (recoverRun len ecrc s).1 := by
  rw [recoverRun_eq_solve]; exact (recoverDelta_fixed len ecrc s).trans (solve_fixed _ _ _)

theorem recoverRun_msg (len : U32) (ecrc : U16) (s : State) : (recoverRun len ecrc s).1.msg = s.msg := by
  rw [recoverRun_eq_solve]; exact (solve_msg _ _ _).trans (recoverDelta_msg len ecrc s)

/-- Every command ends in one response over a state in which the tables, the capacity, the unspecified contents and the
host's list are as before, and `MSG` too but for the one byte of a WRMSG that is in range. -/
theorem exec_ends (i : Instr) (s : State) :
    ∃ t st f v, exec i s = .next (t.respond st f v) ∧ SameFixed s t ∧
      (t.msg = s.msg ∨ ∃ a b, i = .wrmsg a b ∧ a.toNat < s.msgcap ∧ t.msg = s.msg.put a.toNat b) := by
  cases i with
  | wrmsg a b =>
    rcases Nat.lt_or_ge a.toNat s.msgcap with h | h
    · exact ⟨s.memWrite a b, _, _, _, execWrmsg_ok h b, ⟨rfl, rfl, rfl, rfl, rfl⟩, .inr ⟨a, b, rfl, h, rfl⟩⟩
    · exact ⟨s, _, _, _, execWrmsg_range h b, .refl s, .inl rfl⟩
  | rdmsg a =>
    rcases Nat.lt_or_ge a.toNat s.msgcap with h | h
    · exact ⟨s, _, _, _, execRdmsg_ok h, .refl s, .inl rfl⟩
    · exact ⟨s, _, _, _, execRdmsg_range h, .refl s, .inl rfl⟩
  | crc16 seed len =>
    rcases Nat.lt_or_ge s.msgcap len.toNat with h | h
    · exact ⟨s, _, _, _, execCrc16_range h seed, .refl s, .inl rfl⟩
    · exact ⟨_, _, _, _, execCrc16_ok h seed, fold_fixed _ _ _ _, .inl (fold_msg _ _ _ _)⟩
  | prefixCrc seed len => exact ⟨_, _, _, _, rfl, fold_fixed _ _ _ _, .inl (fold_msg _ _ _ _)⟩
  | findpfx len target => exact ⟨_, _, _, _, rfl, solve_fixed _ _ _, .inl (solve_msg _ _ _)⟩
  | recover len ecrc =>
    rcases Nat.lt_or_ge s.msgcap len.toNat with h | h
    · exact ⟨s, _, _, _, execRecover_range h ecrc, .refl s, .inl rfl⟩
    · exact ⟨_, _, _, _, execRecover_ok h ecrc, recoverRun_fixed _ _ _, .inl (recoverRun_msg _ _ _)⟩

/-- The four things a step can be: waiting, a command, a refused word, a reset. -/
theorem step_cases {s t : State} (h : step s = .next t) :
    (s.input = [] ∧ t = s.wait) ∨
      (∃ cw i rest, s.input = .command cw :: rest ∧ decode cw = .command i ∧ exec i (s.takeEvent rest) = .next t) ∨
      (∃ cw c rest, s.input = .command cw :: rest ∧ decode cw = .illegal c ∧
        t = (s.takeEvent rest).respond .illegal false 0x0000) ∨
      (∃ e rest, s.input = e :: rest ∧ (e = .reset ∨ ∃ cw, e = .resetDuring cw) ∧ t = (s.takeEvent rest).takeReset) := by
  unfold step at h
  split at h
  next hs => exact .inl ⟨hs, by injection h with h; exact h.symm⟩
  next cw rest hs =>
    split at h
    next i hd => exact .inr (.inl ⟨cw, i, rest, hs, hd, h⟩)
    next c hd => exact .inr (.inr (.inl ⟨cw, c, rest, hs, hd, by injection h with h; exact h.symm⟩))
  next rest hs => exact .inr (.inr (.inr ⟨_, rest, hs, .inl rfl, by injection h with h; exact h.symm⟩))
  next cw rest hs => exact .inr (.inr (.inr ⟨_, rest, hs, .inr ⟨cw, rfl⟩, by injection h with h; exact h.symm⟩))

end Sys2Proof.Machine
end

