-- ==== Sys2Proof/Tests/Slice0.lean ====
section
/-! SUPPORT. The model's own tests, every expected value from the spec (95_test_vectors.md, R70 and the rules' worked
examples), and for each obligation with hypotheses a state and operands that meet them. -/

namespace Sys2Proof.Tests

set_option Elab.async false

open Sys2Proof Sys2Proof.Machine

/-! ### Small states -/

/-- A block of `cap` bytes whose buffer holds `bytes` from address 0 on, about to take `events`. -/
def block (cap : Nat) (bytes : List Byte) (events : List HostEvent) : State :=
  { State.resetWith cap with msg := (List.range bytes.length).zip bytes, input := events }

/-- V-S1's body `[0x12, 0x34]` in a buffer of four bytes. -/
def demo : State := block 4 [0x12, 0x34] []

/-- What `f` says of the next state, where there is one. -/
def after {α : Type} (o : Host.Outcome State Fault Refusal) (f : State → α) : Option α :=
  match o with
  | .next t => some (f t)
  | .fault _ => none
  | .refused _ => none

/-- The response to a command, run on `s`. -/
def reply (i : Instr) (s : State) : Option (Option U32) := after (exec i s) State.response

/-! ### Well-formed lines: each check refuses an ill-formed one (R66, R67) -/

theorem test_wf_wrmsg_address : AsmLine.wellFormed (.wrmsg 0x100000000 0) = false := by decide
theorem test_wf_wrmsg_byte : AsmLine.wellFormed (.wrmsg 0 0x100) = false := by decide
theorem test_wf_rdmsg_address : AsmLine.wellFormed (.rdmsg 0x100000000) = false := by decide
theorem test_wf_crc16_seed : AsmLine.wellFormed (.crc16 0x10000 0) = false := by decide
theorem test_wf_crc16_len : AsmLine.wellFormed (.crc16 0 0x100000000) = false := by decide
theorem test_wf_prefix_seed : AsmLine.wellFormed (.prefixCrc 0x10000 0) = false := by decide
theorem test_wf_prefix_len : AsmLine.wellFormed (.prefixCrc 0 0x100000000) = false := by decide
theorem test_wf_findpfx_len : AsmLine.wellFormed (.findpfx 0x100000000 0) = false := by decide
theorem test_wf_findpfx_target : AsmLine.wellFormed (.findpfx 0 0x10000) = false := by decide
theorem test_wf_recover_len : AsmLine.wellFormed (.recover 0x100000000 0) = false := by decide
theorem test_wf_recover_ecrc : AsmLine.wellFormed (.recover 0 0x10000) = false := by decide
theorem test_wf_fill_empty : AsmLine.wellFormed (.fill 0 []) = false := by decide
theorem test_wf_fill_address : AsmLine.wellFormed (.fill 0xFFFFFFFF [1, 2]) = false := by decide
theorem test_wf_fill_byte : AsmLine.wellFormed (.fill 0 [1, 0x100]) = false := by decide
theorem test_wf_greatest_operands :
    (AsmLine.wellFormed (.wrmsg 0xFFFFFFFF 0xFF) && AsmLine.wellFormed (.recover 0xFFFFFFFF 0xFFFF)) = true := by decide

/-! ### Decoding: words written out bit by bit from R60 and R63, one per command -/

/-- `WRMSG 0x80000001, 0xA5`: OP, RSV, ARG[15:8], byte, address. -/
theorem test_decode_wrmsg :
    decode 0b00000001_00000000_00000000_10100101_10000000000000000000000000000001 =
      .command (.wrmsg 0x80000001 0xA5) := by decide
/-- `RDMSG 0x40000002`: OP, RSV, ARG, address. -/
theorem test_decode_rdmsg :
    decode 0b00000010_00000000_0000000000000000_01000000000000000000000000000010 = .command (.rdmsg 0x40000002) := by
  decide
/-- `CRC16 0x8001, 0xC0000003`: OP, RSV, seed, length. -/
theorem test_decode_crc16 :
    decode 0b00010000_00000000_1000000000000001_11000000000000000000000000000011 =
      .command (.crc16 0x8001 0xC0000003) := by decide
/-- `PREFIX 0x4002, 5`. -/
theorem test_decode_prefix :
    decode 0b00010001_00000000_0100000000000010_00000000000000000000000000000101 =
      .command (.prefixCrc 0x4002 5) := by decide
/-- `FINDPFX 6, 0xABCD`. -/
theorem test_decode_findpfx :
    decode 0b00100000_00000000_1010101111001101_00000000000000000000000000000110 =
      .command (.findpfx 6 0xABCD) := by decide
/-- `RECOVER 2, 0x0EC9`. -/
theorem test_decode_recover :
    decode 0b00100001_00000000_0000111011001001_00000000000000000000000000000010 =
      .command (.recover 2 0x0EC9) := by decide
/-- V-X1 to V-X9: the words of R64, each with its cause. -/
theorem test_decode_illegal :
    [0x0000000000000000, 0x0300000000000000, 0x1200000000000000, 0x2200000000000000, 0xFF00000000000000,
      0x1001FFFF00000009, 0x0101001200000000, 0x0100011200000000, 0x0200000100000000].map decode =
    [.illegal .unknownOpcode, .illegal .unknownOpcode, .illegal .unknownOpcode, .illegal .unknownOpcode,
      .illegal .unknownOpcode, .illegal .reservedNotZero, .illegal .reservedNotZero, .illegal .wrmsgArgHighNotZero,
      .illegal .rdmsgArgNotZero] := by decide
/-- The table's own bit numbering, and that the high bits of a word count. -/
theorem test_decodeTableWord :
    decodeTableWord 64 0x21000EC900000002 = some (.recover 2 0x0EC9) ∧ decodeTableWord 64 0x0300000000000000 = none := by
  decide
/-- P1's first line: `FILL 0, 0x12, 0x34` (R67). -/
theorem test_fill : assemble (.fill 0 [0x12, 0x34]) = some [0x0100001200000000, 0x0100003400000001] := by decide

/-- P1's source: the mnemonic, decimal and hexadecimal numbers, a comment (R66). -/
theorem test_assembleText :
    assembleText "FILL 0, 0x12, 0x34\nRDMSG 1 ; read back\n\nCRC16 0xFFFF, 2".toList =
      some [0x0100001200000000, 0x0100003400000001, 0x0200000000000001, 0x1000FFFF00000002] := by decide +kernel
/-- V-X17, its number written in groups. -/
theorem test_assembleText_grouped : assembleText "FINDPFX 0xFFFF_FFFF, 0".toList = some [0x20000000FFFFFFFF] := by
  decide +kernel
theorem test_readLine_malformed :
    ["rdmsg 1", "RDMSG", "RDMSG 1, 2", "WRMSG 0, 0x", "WRMSG 0 12", "RDMSG _1", "RDMSG 0x1_"].map
        (fun t => readLine t.toList) =
      List.replicate 7 .malformed := by decide +kernel
/-- The four responses of R66 and R70. -/
theorem test_responseLine :
    [0x000031C3, 0x0001ABCD, 0x01000000, 0x02000000, 0x03000000].map
        (fun rw => (responseLine rw).map fun l => String.ofList l.text) =
      [some "-> OK 0x31C3", some "-> OK 0xABCD FOUND", some "-> ILLEGAL", some "-> RANGE", none] := by decide +kernel

/-! ### Functions (R80, R81, R114, R120) -/

/-- V-T1 to V-T6. -/
theorem test_round1 :
    [0x0000, 0x0001, 0x4000, 0x8000, 0xFFFF, 0x8001].map round1 = [0x0000, 0x0002, 0x8000, 0x1021, 0xEFDF, 0x1023] := by
  decide
/-- V-T7. -/
theorem test_tblgen :
    [0x00, 0x01, 0x10, 0x7F, 0x80, 0x91, 0xFF].map tblgen =
      [0x0000, 0x1021, 0x1231, 0x8F78, 0x9188, 0x9398, 0x1EF0] := by decide
/-- V-E10 and V-E11, by table and bit by bit. -/
theorem test_crcBitwise :
    crc16 0x0000 [0x41] = 0x58E5 ∧ crcBitwise 0x0000 [0x41] = 0x58E5 ∧ crcBitwise 0xFFFF [0x41] = 0xB915 := by decide
/-- The `Step` column of V-F1, V-F2, V-F8 and V-F15. -/
theorem test_stepOf :
    [0xABCD, 0x0000, 0x2314, 0xB390].map stepOf = [52598#17, 65536#17, 15847#17, 56607#17] := by decide

/-! ### Commands -/

/-- V-B2: the second byte stays; the response is OK, value 0. -/
theorem test_wrmsg :
    after (exec (.wrmsg 0 0xFF) demo) (fun t => (t.msg, t.response)) =
      some ([(0, 0xFF), (1, 0x34)], some 0x00000000) := by decide
/-- V-B3 and V-X10: the last legal address and the first illegal one. -/
theorem test_wrmsg_range :
    after (exec (.wrmsg 3 0x80) demo) (fun t => (t.memByte 3, t.response)) = some (0x80, some 0x00000000) ∧
      after (exec (.wrmsg 4 0x55) demo) (fun t => (t.msg, t.response)) = some (demo.msg, some 0x02000000) := by decide
/-- V-B5. -/
theorem test_rdmsg : reply (.rdmsg 1) demo = some (some 0x00000034) := by decide
/-- V-B4 (no sign extension) and V-X11. -/
theorem test_rdmsg_extends :
    reply (.rdmsg 0) (block 4 [0x80] []) = some (some 0x00000080) ∧ reply (.rdmsg 4) demo = some (some 0x02000000) := by
  decide
/-- V-E12. -/
theorem test_crc16 :
    after (exec (.crc16 0xFFFF 2) demo) (fun t => (t.r, t.idx, t.response)) = some (0x0EC9, 2, some 0x00000EC9) := by
  decide +kernel
/-- V-E4, the check string. -/
theorem test_crc16_check_string :
    reply (.crc16 0x0000 9) (block 16 [0x31, 0x32, 0x33, 0x34, 0x35, 0x36, 0x37, 0x38, 0x39] []) =
      some (some 0x000031C3) := by decide +kernel
/-- V-P9. -/
theorem test_prefix : reply (.prefixCrc 0x1234 4) demo = some (some 0x0000EFAA) := by decide +kernel
/-- V-P1, and V-P6 beyond the buffer's capacity. -/
theorem test_prefix_any_length :
    reply (.prefixCrc 0xABCD 0) demo = some (some 0x0000ABCD) ∧
      reply (.prefixCrc 0xFFFF 2) (block 0 [] []) = some (some 0x00001D0F) := by decide +kernel
/-- V-F9 with its trace's last row. -/
theorem test_findpfx :
    after (exec (.findpfx 1 0x0700) demo) (fun t => (t.k, t.tv, t.cand, t.response)) =
      some (5, 0x0700, 0x0007, some 0x00010007) := by decide
/-- V-F3: a match at the first step, the basis being row 0 of R112. -/
theorem test_findpfx_first_step :
    after (exec (.findpfx 0 0x0001) demo) (fun t => (t.k, t.bi, t.basisRead 15, t.response)) =
      some (1, 16, 0x8000, some 0x00010001) := by decide
/-- The body of V-R1 with the checksum `0x13C6 XOR 0x1021`, whose target 0x1021 is `prefixfn(0x0001, 2)` (V-P4). -/
theorem test_recover :
    after (exec (.recover 2 0x03E7) demo) (fun t => (t.tgt, t.k, t.response)) =
      some (0x1021, 1, some 0x00010001) := by decide
/-- V-X13. -/
theorem test_recover_range :
    after (exec (.recover 5 0x0000) demo) (fun t => (t.basisRead 0, t.response)) = some (0x0000, some 0x02000000) := by
  decide

/-! ### Steps -/

/-- P4, lines 1 and 6: an illegal word stores nothing. -/
theorem test_step_illegal :
    after (step (block 4 [0xAA] [.command 0x0100011200000000])) (fun t => (t.msg, t.input, t.response)) =
      some ([(0, 0xAA)], [], some 0x01000000) := by decide
/-- V-X15: illegal and out of range at once reports illegal (R164). -/
theorem test_step_illegal_before_range :
    after (step (block 4 [] [.command 0x01000155FFFFFFFF])) State.response = some (some 0x01000000) := by decide
/-- A reset while WRMSG runs: nothing is written, nothing is answered (R185). -/
theorem test_step_reset :
    after (step (block 4 [0x12] [.resetDuring 0x0100001200000001])) (fun t => (t.msg, t.response, t.tblRead 1)) =
      some ([], none, 0x1021) := by decide
/-- The first command after reset (R182): FINDPFX of length 0. -/
theorem test_step_first_command :
    after (step (State.reset.withFetchWord 64 0x2000000300000000)) State.response = some (some 0x00010003) := by decide

/-! ### Witnesses: each obligation's hypotheses are met together, each clause at the edge of its range -/

theorem demo_tablesOk : demo.tablesOk := ⟨rfl, rfl⟩

theorem demo_Inv : demo.Inv where
  tables := demo_tablesOk
  msgWf := by decide
  msgIn := by decide
  cap := by decide
  biLe := by decide
  kLe := by decide
  rwOk := by intro rw h; cases h

/-- For the invariant: a state that meets it and steps, the command a store at the last address. -/
theorem witness_EveryStepKeepsTheInvariant :
    ∃ s t : State, s.Inv ∧ s.input ≠ [] ∧ step s = .next t :=
  ⟨{ demo with input := [.command 0x010000FF00000003] }, _,
    ⟨demo_Inv.tables, demo_Inv.msgWf, demo_Inv.msgIn, demo_Inv.cap, demo_Inv.biLe, demo_Inv.kLe, demo_Inv.rwOk⟩,
    by simp, rfl⟩

theorem witness_InvariantHoldsAtReset : 0 ≤ Config.msgcapMax ∧ 2 ^ 32 ≤ Config.msgcapMax := by decide

/-- The four kinds of illegal word, and a legal one. -/
theorem witness_IllegalWordsAreExactlyThese :
    (∃ (s : State) (cw : U64) (rest : List HostEvent), s.input = .command cw :: rest ∧
        cwOp cw ∉ ([0x01, 0x02, 0x10, 0x11, 0x20, 0x21] : List Byte)) ∧
      (∃ (s : State) (cw : U64) (rest : List HostEvent), s.input = .command cw :: rest ∧ cwRsv cw ≠ 0x00) ∧
      (∃ (s : State) (cw : U64) (rest : List HostEvent), s.input = .command cw :: rest ∧ cwOp cw = 0x01 ∧ cwArgHi cw ≠ 0x00) ∧
      (∃ (s : State) (cw : U64) (rest : List HostEvent), s.input = .command cw :: rest ∧ cwOp cw = 0x02 ∧ cwArg cw ≠ 0x0000) ∧
      ∃ (s : State) (cw : U64) (rest : List HostEvent), s.input = .command cw :: rest ∧
        cwOp cw ∈ ([0x01, 0x02, 0x10, 0x11, 0x20, 0x21] : List Byte) ∧ cwRsv cw = 0x00 ∧ cwOp cw ≠ 0x01 ∧
        cwOp cw ≠ 0x02 :=
  ⟨⟨block 4 [] [.command 0x0300000000000000], 0x0300000000000000, [], rfl, by decide⟩,
    ⟨block 4 [] [.command 0x1001FFFF00000009], 0x1001FFFF00000009, [], rfl, by decide⟩,
    ⟨block 4 [] [.command 0x0100011200000000], 0x0100011200000000, [], rfl, by decide⟩,
    ⟨block 4 [] [.command 0x0200000100000000], 0x0200000100000000, [], rfl, by decide⟩,
    ⟨block 4 [] [.command 0x1100000100000001], 0x1100000100000001, [], rfl, by decide⟩⟩

/-- A state about to take a FINDPFX, whose response has the found bit. -/
theorem witness_EveryCommandGetsOneLegalResponse :
    ∃ (s : State) (cw : U64) (rest : List HostEvent), s.input = .command cw :: rest ∧ decode cw = .command (.findpfx 1 0x0700) ∧
      (after (step s) fun t => t.response.map rwFound) = some (some true) :=
  ⟨block 4 [] [.command 0x2000070000000001], 0x2000070000000001, [], rfl, by decide +kernel⟩

theorem witness_StepRunsDecodedCommand :
    ∃ (s : State) (cw : U64) (rest : List HostEvent) (i : Instr),
      s.input = .command cw :: rest ∧ decode cw = .command i :=
  ⟨block 4 [] [.command 0x0200000000000001], _, _, .rdmsg 1, rfl, by decide⟩

theorem witness_FetchedTableWordRunsNext : ∃ (nbits w : Nat) (i : Instr), decodeTableWord nbits w = some i :=
  ⟨64, 0x1000FFFF00000009, .crc16 0xFFFF 9, by decide⟩

theorem witness_IdleBlockHoldsItsState : ∃ s : State, s.input = [] := ⟨demo, rfl⟩

theorem witness_ResetLeavesTheValuesOfR32 :
    (∃ (s : State) (rest : List HostEvent), s.input = .reset :: rest) ∧
      ∃ (s : State) (cw : U64) (rest : List HostEvent), s.input = .resetDuring cw :: rest :=
  ⟨⟨block 4 [] [.reset], _, rfl⟩, ⟨block 4 [] [.resetDuring 0], _, _, rfl⟩⟩

theorem witness_ResetRebuildsTheSameTable :
    ∃ (s s' t t' : State) (cw : U64) (rest rest' : List HostEvent), s.input = .reset :: rest ∧
      s'.input = .resetDuring cw :: rest' ∧ step s = .next t ∧ step s' = .next t' ∧
      s.input = .reset :: .resetDuring cw :: [] :=
  ⟨block 4 [] [.reset, .resetDuring 0], block 9 [0x31] [.resetDuring 0], _, _, 0, _, _, rfl, rfl, rfl, rfl, rfl⟩

theorem witness_TableHoldsTheListing : ∃ s t : State, (∀ k, s.tblRead k = tblgen k) ∧ step s = .next t :=
  ⟨demo, _, fun k => crcTable_get k, rfl⟩

theorem witness_TableEntriesAreDistinct : ∃ a b : Byte, tblgen a = tblgen b := ⟨0xFF, 0xFF, rfl⟩

theorem witness_ByteStepIsTheTableFormula : ∃ s : State, ∀ k, s.tblRead k = tblgen k := ⟨demo, fun k => crcTable_get k⟩

/-- `L` = 0, `L = MSGCAP` and `L = MSGCAP + 1`. -/
theorem witness_Crc16FoldsTheMessage :
    demo.tbl = crcTable ∧ (0 : U32).toNat ≤ demo.msgcap ∧ (4 : U32).toNat = demo.msgcap ∧
      (5 : U32).toNat = demo.msgcap + 1 := ⟨rfl, by decide, by decide, by decide⟩

/-- `L` = 0, seed 0, and the greatest `L` with a partner at `L + 32767`. -/
theorem witness_PrefixFoldsZeroBytes :
    demo.tbl = crcTable ∧ ∃ len len' : U32, len'.toNat = len.toNat + 32767 ∧ len' = 0xFFFFFFFF :=
  ⟨rfl, 0xFFFF8000, 0xFFFFFFFF, by decide, rfl⟩

theorem witness_PrefixHasPeriod32767 : ∃ n : Nat, 0 < n ∧ n = 32767 := ⟨32767, by decide, rfl⟩

theorem witness_GrayWalkTestsEverySubsetOnce : (0 < 65536) ∧ (65535 < 65536) := by decide

/-- A search over the basis of length 0, at the first and at the last step. -/
theorem witness_SearchStepKeepsTheSubset :
    ∃ s : State, s.tablesOk ∧ s.basis = basisTable 0 ∧ 1 ≤ 1 ∧ 65536 ≤ 65536 :=
  ⟨{ demo with basis := basisTable 0 }, ⟨rfl, rfl⟩, rfl, by decide, by decide⟩

theorem witness_BasisOfSmallLengths :
    (∃ i : Fin 16, i.val < 8 ∧ i = 7) ∧ (∃ i : Fin 16, 8 ≤ i.val ∧ i = 8) ∧
      ∃ i j : Fin 16, j.val = i.val + 8 ∧ j = 15 :=
  ⟨⟨7, by decide, rfl⟩, ⟨8, by decide, rfl⟩, ⟨7, 15, by decide, rfl⟩⟩

theorem witness_FindpfxFindsThePrefix :
    demo.tablesOk ∧ ∃ len len' : U32, len'.toNat = len.toNat + 32767 ∧ len = 0 :=
  ⟨demo_tablesOk, 0, 0x7FFF, by decide, rfl⟩

theorem witness_SolverEqualsThePlainSearch : ∃ s : State, s.tablesOk := ⟨demo, demo_tablesOk⟩

theorem witness_BasisIsFullRankSoTheSentinelIsUnreachable :
    demo.tablesOk ∧ (4 : U32).toNat ≤ demo.msgcap ∧ (0x0001 : U16) ≠ 0x0000 ∧ (0xFFFF : U16) ≠ 0x0000 :=
  ⟨demo_tablesOk, by decide, by decide, by decide⟩

theorem witness_FindpfxOfLengthZeroIsTheTarget : demo.tablesOk ∧ (0 ≤ 65536) ∧ (65536 ≤ 65536) :=
  ⟨demo_tablesOk, by decide, by decide⟩

theorem witness_SearchStopsAtTheStepOfItsSolution :
    demo.tablesOk ∧ candidate 1 = 0x0001 ∧ candidate 65536 = 0x0000 := ⟨demo_tablesOk, by decide, by decide⟩

/-- A block whose basis is all zero and whose selectors are too finds nothing to match but 0: the sentinel's premise is met
in a state that no run reaches. One step of it shows the accumulator staying at 0. -/
theorem witness_ZeroValueIsToldApartByTheFoundBit :
    demo.tablesOk ∧ (searchLoop 1 (searchStart 0x0001 State.reset)).2.found = false :=
  ⟨demo_tablesOk, by decide⟩

theorem witness_RecoverFindsThePrefix :
    demo.tablesOk ∧ (0 : U32).toNat ≤ demo.msgcap ∧ (4 : U32).toNat = demo.msgcap ∧
      (5 : U32).toNat = demo.msgcap + 1 := ⟨demo_tablesOk, by decide, by decide, by decide⟩

theorem witness_RecoverEqualsTheHostSequence : ∃ (s : State) (len : U32), len.toNat ≤ s.msgcap ∧ len.toNat = s.msgcap :=
  ⟨demo, 4, by decide, by decide⟩

theorem witness_RecoverReturnsTheSeedOfTheChecksum :
    demo.tablesOk ∧ (2 : U32).toNat ≤ demo.msgcap := ⟨demo_tablesOk, by decide⟩

theorem witness_WrmsgStoresOneByte :
    (3 : U32).toNat < demo.msgcap ∧ demo.msgcap ≤ (4 : U32).toNat ∧
      ∃ (s : State) (cw : U64) (rest : List HostEvent), s.input = .command cw :: rest ∧ cwOp cw = 0x01 ∧
        cwArgHi cw ≠ 0x00 :=
  ⟨by decide, by decide, block 4 [] [.command 0x0100011200000000], _, _, rfl, by decide⟩

theorem witness_RdmsgLoadsOneByte :
    (3 : U32).toNat < demo.msgcap ∧ demo.msgcap ≤ (4 : U32).toNat ∧
      ∃ (s : State) (cw : U64) (rest : List HostEvent), s.input = .command cw :: rest ∧ cwOp cw = 0x02 ∧
        cwArg cw ≠ 0x0000 :=
  ⟨by decide, by decide, block 4 [] [.command 0x0200000100000000], _, _, rfl, by decide⟩

/-- A store to another address, an illegal word and a CRC between the write and the read, at the last address. -/
theorem witness_ReadReturnsTheLastWrite :
    ∃ (s : State) (a : U32) (v : Byte) (between rest : List HostEvent), a.toNat < s.msgcap ∧ a = 3 ∧
      s.input = .command (encode (.wrmsg a v)) :: (between ++ .command (encode (.rdmsg a)) :: rest) ∧
      (∀ e ∈ between, e ≠ .reset ∧ (∀ cw, e ≠ .resetDuring cw) ∧ ∀ b, e ≠ .command (encode (.wrmsg a b))) ∧
      between.length = 2 := by
  refine ⟨block 4 [] (.command (encode (.wrmsg 3 0x80)) ::
      ([.command 0, .command (encode (.crc16 0 0))] ++ [.command (encode (.rdmsg 3))])), 3, 0x80,
    [.command 0, .command (encode (.crc16 0 0))], [], by decide, rfl, rfl, ?_, rfl⟩
  intro e he
  have hop : ∀ (cw : U64) (b : Byte), cwOp cw ≠ 0x01 → HostEvent.command cw ≠ .command (encode (.wrmsg 3 b)) :=
    fun cw b h hc => h (by injection hc with hc; rw [hc]; exact cwOp_commandWord _ _ _ _)
  rcases List.mem_pair.mp he with rfl | rfl
  · exact ⟨by simp, by simp, fun b => hop _ b (by decide)⟩
  · exact ⟨by simp, by simp, fun b => hop _ b (by decide)⟩

theorem witness_ErrorResponsesChangeNothing :
    outOfRange (.wrmsg 4 0) demo = true ∧ outOfRange (.rdmsg 4) demo = true ∧ outOfRange (.crc16 0 5) demo = true ∧
      outOfRange (.recover 5 0) demo = true ∧ outOfRange (.crc16 0 4) demo = false ∧
      outOfRange (.findpfx 0xFFFFFFFF 0) demo = false ∧ decode 0 = .illegal .unknownOpcode ∧
      (block 4 [] [.command 0]).input = .command 0 :: [] := by decide

theorem witness_BufferCommandsFrame :
    (∃ t, exec (.wrmsg 3 0x55) demo = .next t) ∧ (∃ t, exec (.rdmsg 3) demo = .next t) ∧
      storeAddress (.wrmsg 3 0x55) demo ≠ some 2 ∧ storeAddress (.wrmsg 4 0x55) demo = none :=
  ⟨⟨_, rfl⟩, ⟨_, rfl⟩, by decide, by decide⟩

theorem witness_EngineCommandsFrame :
    (∃ t, exec (.crc16 0 4) demo = .next t) ∧ ∃ t, exec (.prefixCrc 0 0xFFFFFFFF) demo = .next t :=
  ⟨⟨_, execCrc16_ok (by decide) _⟩, ⟨_, by rw [exec, execPrefixCrc]⟩⟩

theorem witness_SolverCommandsFrame :
    (∃ t, exec (.findpfx 0xFFFFFFFF 0) demo = .next t) ∧ ∃ t, exec (.recover 4 0) demo = .next t :=
  ⟨⟨_, by rw [exec, execFindpfx]⟩, ⟨_, execRecover_ok (by decide) _⟩⟩

/-- A store that writes, and a fold that moves `R`: the premises of each clause. -/
theorem witness_EachPieceIsWrittenOnlyByItsCommands :
    after (exec (.wrmsg 2 0x13) demo) (fun t => decide (t.msg ≠ demo.msg)) = some true ∧
      after (exec (.crc16 0 1) demo) (fun t => decide (t.r ≠ demo.r)) = some true ∧
      after (exec (.findpfx 0 1) demo) (fun t => decide (t.k ≠ demo.k)) = some true ∧
      after (step { demo with tbl := demo.tbl.set 0 1, input := [.reset] }) (fun t => decide (t.tblRead 0 ≠ 1)) =
        some true := by decide

theorem witness_CommandAfterAnErrorRunsAsWithoutIt :
    ∃ (s t : State) (cw : U64) (rest : List HostEvent) (rw : U32), s.input = .command cw :: rest ∧ rest ≠ [] ∧
      step s = .next t ∧ t.response = some rw ∧ rwStatus rw ≠ 0x00 :=
  ⟨block 4 [] [.command 0, .command 0x0200000000000000], _, _, _, _, rfl, by simp, rfl, rfl, by decide⟩

/-- Two states that differ in every working register. -/
theorem witness_WorkingRegistersAreUnobservable :
    ∃ s t : State, SameVisible s t ∧ s.r ≠ t.r ∧ s.basis ≠ t.basis ∧ s.tgt ≠ t.tgt ∧ s.tv ≠ t.tv ∧ s.cand ≠ t.cand ∧
      s.idx ≠ t.idx ∧ s.bi ≠ t.bi ∧ s.k ≠ t.k :=
  ⟨demo, { demo with
      r := 1, basis := Vector.replicate 16 1, tgt := 1, tv := 1, cand := 1, idx := 1, bi := 1, k := 1 },
    ⟨rfl, rfl, rfl, rfl, rfl, rfl⟩, by decide⟩

/-- The written bytes are 0 and 1: reads up to there keep to R182, a read of 2 does not. -/
theorem witness_UnspecifiedContentsDoNotReachTheResponse :
    readsOnlyWritten (.rdmsg 1) demo = true ∧ readsOnlyWritten (.crc16 0 2) demo = true ∧
      readsOnlyWritten (.recover 2 0) demo = true ∧ readsOnlyWritten (.rdmsg 4) demo = true ∧
      readsOnlyWritten (.rdmsg 2) demo = false ∧ readsOnlyWritten (.crc16 0 3) demo = false := by decide

theorem witness_FillIsItsWrmsgCommandsInOrder :
    ∃ (a : Nat) (bytes : List Nat), bytes ≠ [] ∧ a + (bytes.length - 1) ≤ 0xFFFFFFFF ∧ a = 0xFFFFFFFE ∧
      (∀ b ∈ bytes, b ≤ 0xFF) ∧ bytes[1]? = some 0xFF :=
  ⟨0xFFFFFFFE, [0, 0xFF], by decide⟩

/-- Each kind of reset over a written byte, a command, and a block that waits. -/
theorem witness_ResetSelectsTheContentsAnew :
    (block 4 [0x12] [.reset]).input = .reset :: [] ∧ (block 4 [0x12] [.resetDuring 0]).input = .resetDuring 0 :: [] ∧
      (block 4 [] [.command 0]).input = .command 0 :: [] ∧ demo.input = [] := by decide

end Sys2Proof.Tests
end

/-! ## Proofs of the statements about the state (10_state.md): what a command and a reset leave behind -/

section
namespace Sys2Proof.Machine

/-! ### A step, one equation per kind of event -/

theorem step_of_no_event {s : State} (h : s.input = []) : step s = .next s.wait := by
  rw [step, h]

theorem step_of_command {s : State} {cw : U64} {rest : List HostEvent} {i : Instr} (h : s.input = .command cw :: rest)
    (hd : decode cw = .command i) : step s = exec i (s.takeEvent rest) := by
  simp only [step, h, hd]

theorem step_of_illegal {s : State} {cw : U64} {rest : List HostEvent} {c : IllegalCause}
    (h : s.input = .command cw :: rest) (hd : decode cw = .illegal c) :
    step s = (s.takeEvent rest).raise .illegal := by
  simp only [step, h, hd]

/-- A reset does the same between commands and during one (R180, R185). -/
theorem step_of_reset {s : State} {e : HostEvent} {rest : List HostEvent} (h : s.input = e :: rest)
    (he : e = .reset ∨ ∃ cw, e = .resetDuring cw) : step s = .next (s.takeEvent rest).takeReset := by
  rcases he with rfl | ⟨cw, rfl⟩ <;> rw [step, h]

/-! ### The ways a command can end -/

/-- `CommandEnds s i t`: the command `i`, run from `s`, ends in `t` in one of the ways that its meaning allows. -/
inductive CommandEnds (s : State) : Instr → State → Prop
  /-- The range check fails (R162). -/
  | outOfRange (i : Instr) : CommandEnds s i (s.respond .range false 0x0000)
  /-- WRMSG stores (R145). -/
  | stored (a : U32) (b : Byte) (h : a.toNat < s.msgcap) :
      CommandEnds s (.wrmsg a b) ((s.memWrite a b).respond .ok false 0x0000)
  /-- RDMSG answers the byte (R146). -/
  | loaded (a : U32) : CommandEnds s (.rdmsg a) (s.respond .ok false (zext16 (s.memRead a)))
  /-- CRC16 folds the message (R92). -/
  | foldedBuffer (seed : U16) (len : U32) : CommandEnds s (.crc16 seed len) (respondR (fold .buffer seed len s))
  /-- PREFIX folds zero bytes (R94). -/
  | foldedZeros (seed : U16) (len : U32) : CommandEnds s (.prefixCrc seed len) (respondR (fold .zeros seed len s))
  /-- FINDPFX solves for its operand (R115). -/
  | solved (len : U32) (target : U16) : CommandEnds s (.findpfx len target) (respondSolution (solve len target s))
  /-- RECOVER solves for the target that its phase 0 left (R136). -/
  | recovered (len : U32) (ecrc : U16) : CommandEnds s (.recover len ecrc) (respondSolution (recoverRun len ecrc s))

theorem exec_commandEnds {i : Instr} {s t : State} (h : exec i s = .next t) : CommandEnds s i t := by
  cases i with
  | wrmsg a b =>
    rcases Nat.lt_or_ge a.toNat s.msgcap with hr | hr
    · cases (execWrmsg_ok hr b).symm.trans h; exact .stored a b hr
    · cases (execWrmsg_range hr b).symm.trans h; exact .outOfRange _
  | rdmsg a =>
    rcases Nat.lt_or_ge a.toNat s.msgcap with hr | hr
    · cases (execRdmsg_ok hr).symm.trans h; exact .loaded a
    · cases (execRdmsg_range hr).symm.trans h; exact .outOfRange _
  | crc16 seed len =>
    rcases Nat.lt_or_ge s.msgcap len.toNat with hr | hr
    · cases (execCrc16_range hr seed).symm.trans h; exact .outOfRange _
    · cases (execCrc16_ok hr seed).symm.trans h; exact .foldedBuffer seed len
  | prefixCrc seed len => cases h; exact .foldedZeros seed len
  | findpfx len target => cases h; exact .solved len target
  | recover len ecrc =>
    rcases Nat.lt_or_ge s.msgcap len.toNat with hr | hr
    · cases (execRecover_range hr ecrc).symm.trans h; exact .outOfRange _
    · cases (execRecover_ok hr ecrc).symm.trans h; exact .recovered len ecrc

/-! ### What a command leaves unchanged (R20, the column Written by) -/

theorem exec_sameFixed {i : Instr} {s t : State} (h : exec i s = .next t) : SameFixed s t := by
  obtain ⟨u, st, f, v, he, hf, -⟩ := exec_ends i s
  cases he.symm.trans h
  exact ⟨hf.tbl, hf.sel, hf.msgcap, hf.resetCount, hf.input⟩

theorem exec_msg_ne {i : Instr} {s t : State} (h : exec i s = .next t) (hne : t.msg ≠ s.msg) :
    ∃ a b, i = .wrmsg a b := by
  obtain ⟨u, st, f, v, he, -, hm⟩ := exec_ends i s
  cases he.symm.trans h
  obtain hm | ⟨a, b, hi, -⟩ := hm
  · exact absurd hm hne
  · exact ⟨a, b, hi⟩

/-- Only the commands that fold write the registers of a fold. -/
theorem exec_fold_registers_ne {i : Instr} {s t : State} (h : exec i s = .next t) (hne : t.r ≠ s.r ∨ t.idx ≠ s.idx) :
    (∃ v len, i = .crc16 v len) ∨ (∃ v len, i = .prefixCrc v len) ∨ (∃ len v, i = .findpfx len v) ∨
      ∃ len v, i = .recover len v := by
  cases exec_commandEnds h with
  | outOfRange | stored | loaded => simp at hne
  | foldedBuffer seed len => exact .inl ⟨seed, len, rfl⟩
  | foldedZeros seed len => exact .inr (.inl ⟨seed, len, rfl⟩)
  | solved len target => exact .inr (.inr (.inl ⟨len, target, rfl⟩))
  | recovered len ecrc => exact .inr (.inr (.inr ⟨len, ecrc, rfl⟩))

/-- Only the solver's two commands write the registers of the basis loop and the search. -/
theorem exec_solver_registers_ne {i : Instr} {s t : State} (h : exec i s = .next t)
    (hne : t.basis ≠ s.basis ∨ t.tgt ≠ s.tgt ∨ t.tv ≠ s.tv ∨ t.cand ≠ s.cand ∨ t.bi ≠ s.bi ∨ t.k ≠ s.k) :
    (∃ len v, i = .findpfx len v) ∨ ∃ len v, i = .recover len v := by
  cases exec_commandEnds h with
  | outOfRange | stored | loaded => simp at hne
  | foldedBuffer seed len => rw [respondR, fold_writes] at hne; simp at hne
  | foldedZeros seed len => rw [respondR, fold_writes] at hne; simp at hne
  | solved len target => exact .inl ⟨len, target, rfl⟩
  | recovered len ecrc => exact .inr ⟨len, ecrc, rfl⟩

/-- The read-only tables change at a reset event alone (R83, R52). -/
theorem step_tables_ne {s t : State} (h : step s = .next t) (hne : t.tbl ≠ s.tbl ∨ t.sel ≠ s.sel) :
    ∃ e rest, s.input = e :: rest ∧ (e = .reset ∨ ∃ cw, e = .resetDuring cw) := by
  obtain ⟨-, rfl⟩ | ⟨cw, i, rest, -, -, he⟩ | ⟨cw, c, rest, -, -, rfl⟩ | ⟨e, rest, hs, hr, -⟩ := step_cases h
  · simp at hne
  · have hf := exec_sameFixed he
    simp [hf.tbl, hf.sel] at hne
  · simp at hne
  · exact ⟨e, rest, hs, hr⟩

/-- Settles O48: a command's ways to end name what it writes, and only a reset event reaches the tables. -/
theorem eachPieceIsWrittenOnlyByItsCommands : Obligations.EachPieceIsWrittenOnlyByItsCommands := by
  refine ⟨fun i s t h => ?_, fun s t => step_tables_ne⟩
  have hf := exec_sameFixed h
  exact ⟨hf.tbl, hf.sel, exec_msg_ne h, exec_fold_registers_ne h, exec_solver_registers_ne h⟩

/-! ### The invariant (R24, R27, R29, R41, R61, R83) -/

/-- A response is legal when its status is OK, or its found bit and value are zero (R61). -/
theorem rwLegal_responseWord {st : Status} {f : Bool} {v : U16} (h : st = .ok ∨ f = false ∧ v = 0x0000) :
    rwLegal (responseWord st f v) := by
  refine ⟨rwZero_responseWord st f v, ?_⟩
  rw [rwStatus_responseWord, rwFound_responseWord, rwValue_responseWord]
  cases st with
  | ok => exact .inl rfl
  | illegal => exact .inr ⟨.inl rfl, h.resolve_left (by decide)⟩
  | range => exact .inr ⟨.inr rfl, h.resolve_left (by decide)⟩

theorem State.Inv.respond {s : State} (h : s.Inv) {st : Status} {f : Bool} {v : U16}
    (hl : st = .ok ∨ f = false ∧ v = 0x0000) : (s.respond st f v).Inv where
  tables := h.tables
  msgWf := h.msgWf
  msgIn := h.msgIn
  cap := h.cap
  biLe := h.biLe
  kLe := h.kLe
  rwOk := fun _ hr => Option.some.inj hr ▸ rwLegal_responseWord hl

theorem State.Inv.wait {s : State} (h : s.Inv) : s.wait.Inv :=
  { h with rwOk := fun _ hr => nomatch hr }

theorem State.Inv.takeEvent {s : State} (h : s.Inv) (rest : List HostEvent) : (s.takeEvent rest).Inv :=
  ⟨h.tables, h.msgWf, h.msgIn, h.cap, h.biLe, h.kLe, h.rwOk⟩

theorem resetWith_inv {cap : Nat} (h : cap ≤ Config.msgcapMax) : (State.resetWith cap).Inv where
  tables := ⟨rfl, rfl⟩
  msgWf := List.Pairwise.nil
  msgIn := fun _ hc => nomatch hc
  cap := h
  biLe := show 0#5 ≤ 16#5 by decide
  kLe := show 0#17 ≤ 65536#17 by decide
  rwOk := fun _ hr => nomatch hr

theorem State.Inv.takeReset {s : State} (h : s.Inv) : s.takeReset.Inv :=
  have hr := resetWith_inv h.cap
  ⟨hr.tables, hr.msgWf, hr.msgIn, hr.cap, hr.biLe, hr.kLe, hr.rwOk⟩

/-- A write in range keeps the buffer canonical and below `MSGCAP` (R41). -/
theorem State.Inv.memWrite {s : State} (h : s.Inv) {a : U32} (ha : a.toNat < s.msgcap) (v : Byte) :
    (s.memWrite a v).Inv where
  tables := h.tables
  msgWf := Memory.wf_put h.msgWf a.toNat v
  msgIn := fun c hc => by
    rcases Memory.mem_put hc with rfl | hc
    · exact ha
    · exact h.msgIn c hc
  cap := h.cap
  biLe := h.biLe
  kLe := h.kLe
  rwOk := h.rwOk

theorem State.Inv.fold {s : State} (h : s.Inv) (src : ByteSource) (seed : U16) (len : U32) :
    (fold src seed len s).Inv := by
  rw [fold_writes]
  exact ⟨h.tables, h.msgWf, h.msgIn, h.cap, h.biLe, h.kLe, h.rwOk⟩

theorem State.Inv.buildBasis {s : State} (h : s.Inv) (len : U32) : (buildBasis len s).Inv := by
  rw [buildBasis_writes]
  exact ⟨h.tables, h.msgWf, h.msgIn, h.cap, BitVec.le_refl 16#5, h.kLe, h.rwOk⟩

theorem searchBody_k_le {s : State} (h : s.k < 65536#17) : (searchBody s).k ≤ 65536#17 := by
  rw [searchBody_k]
  bv_omega

/-- A step of the search is taken only below 65536, so `K` never passes it (R24, R113). -/
theorem searchLoop_k_le (n : Nat) {s : State} (h : s.k ≤ 65536#17) : (searchLoop n s).1.k ≤ 65536#17 := by
  induction n generalizing s with
  | zero => exact h
  | succ n ih =>
    simp only [searchLoop]
    split_ifs with hlt hm
    · exact searchBody_k_le hlt
    · exact ih (searchBody_k_le hlt)
    · exact h

theorem State.Inv.search {s : State} (h : s.Inv) (target : U16) : (search target s).1.Inv := by
  have hk : (Machine.search target s).1.k ≤ 65536#17 := searchLoop_k_le _ (by rw [searchStart_k]; decide)
  rw [search_writes]
  exact ⟨h.tables, h.msgWf, h.msgIn, h.cap, h.biLe, hk, h.rwOk⟩

theorem State.Inv.solve {s : State} (h : s.Inv) (len : U32) (target : U16) : (solve len target s).1.Inv :=
  (h.buildBasis len).search target

theorem State.Inv.recoverDelta {s : State} (h : s.Inv) (len : U32) (ecrc : U16) : (recoverDelta len ecrc s).Inv :=
  have hf := h.fold .buffer 0x0000 len
  ⟨hf.tables, hf.msgWf, hf.msgIn, hf.cap, hf.biLe, hf.kLe, hf.rwOk⟩

theorem State.Inv.recoverRun {s : State} (h : s.Inv) (len : U32) (ecrc : U16) : (recoverRun len ecrc s).1.Inv := by
  rw [recoverRun_eq_solve]
  exact (h.recoverDelta len ecrc).solve len _

theorem State.Inv.exec {i : Instr} {s t : State} (h : s.Inv) (he : exec i s = .next t) : t.Inv := by
  cases exec_commandEnds he with
  | outOfRange => exact h.respond (.inr ⟨rfl, rfl⟩)
  | stored a b ha => exact (h.memWrite ha b).respond (.inl rfl)
  | loaded => exact h.respond (.inl rfl)
  | foldedBuffer seed len => exact (h.fold .buffer seed len).respond (.inl rfl)
  | foldedZeros seed len => exact (h.fold .zeros seed len).respond (.inl rfl)
  | solved len target => exact (h.solve len target).respond (.inl rfl)
  | recovered len ecrc => exact (h.recoverRun len ecrc).respond (.inl rfl)

theorem State.Inv.step {s t : State} (h : s.Inv) (hs : step s = .next t) : t.Inv := by
  obtain ⟨-, rfl⟩ | ⟨cw, i, rest, -, -, he⟩ | ⟨cw, c, rest, -, -, rfl⟩ | ⟨e, rest, -, -, rfl⟩ := step_cases hs
  · exact h.wait
  · exact (h.takeEvent rest).exec he
  · exact (h.takeEvent rest).respond (.inr ⟨rfl, rfl⟩)
  · exact (h.takeEvent rest).takeReset

/-- Settles O14: every operation of the block keeps the invariant, hence every command and every step. -/
theorem everyStepKeepsTheInvariant : Obligations.EveryStepKeepsTheInvariant :=
  fun _ _ h hs => h.step hs

/-- Settles O13: the values of R32 meet the invariant for every legal capacity, the model's own among them. -/
theorem invariantHoldsAtReset : Obligations.InvariantHoldsAtReset :=
  ⟨resetWith_inv (by decide), fun _ => resetWith_inv⟩

/-! ### The table after a reset (R33, R84) -/

/-- Settles O12: each reset event leaves the constants of R82 in TBL, whatever stood there. -/
theorem resetRebuildsTheSameTable : Obligations.ResetRebuildsTheSameTable := by
  constructor
  · intro s s' t t' e e' rest rest' hs he hs' he' ht ht'
    cases (step_of_reset hs he).symm.trans ht
    cases (step_of_reset hs' he').symm.trans ht'
    rw [State.takeReset_tbl, State.takeReset_tbl]
  · intro s e e' rest hs he he'
    refine ⟨_, _, step_of_reset hs he, step_of_reset (e := e') (rest := rest) ?_ he', ?_⟩
    · rw [State.takeReset_input, State.takeEvent_input]
    · rw [State.takeReset_tbl, State.takeReset_tbl]

/-! ### Working registers are unobservable (R31) -/

theorem SameVisible.memByte {s t : State} (h : SameVisible s t) : s.memByte = t.memByte :=
  memByte_congr h.msg h.resetCount

/-- What changes no visible piece of either state keeps them alike. -/
theorem SameVisible.of_sameFixed {s t s' t' : State} (h : SameVisible s t) (hs : SameFixed s s') (ht : SameFixed t t')
    (hsm : s'.msg = s.msg) (htm : t'.msg = t.msg) : SameVisible s' t' where
  tbl := hs.tbl.trans (h.tbl.trans ht.tbl.symm)
  sel := hs.sel.trans (h.sel.trans ht.sel.symm)
  msg := hsm.trans (h.msg.trans htm.symm)
  msgcap := hs.msgcap.trans (h.msgcap.trans ht.msgcap.symm)
  resetCount := hs.resetCount.trans (h.resetCount.trans ht.resetCount.symm)
  input := hs.input.trans (h.input.trans ht.input.symm)

theorem SameVisible.takeEvent {s t : State} (h : SameVisible s t) (rest : List HostEvent) :
    SameVisible (s.takeEvent rest) (t.takeEvent rest) :=
  ⟨h.tbl, h.sel, h.msg, h.msgcap, h.resetCount, rfl⟩

theorem SameVisible.memWrite {s t : State} (h : SameVisible s t) (a : U32) (v : Byte) :
    SameVisible (s.memWrite a v) (t.memWrite a v) :=
  ⟨h.tbl, h.sel, congrArg (Memory.put · a.toNat v) h.msg, h.msgcap, h.resetCount, h.input⟩

theorem SameVisible.takeReset {s t : State} (h : SameVisible s t) : SameVisible s.takeReset t.takeReset :=
  ⟨rfl, rfl, rfl, h.msgcap, congrArg (· + 1) h.resetCount, h.input⟩

theorem SameVisible.fold {s t : State} (h : SameVisible s t) (src : ByteSource) (seed : U16) (len : U32) :
    SameVisible (fold src seed len s) (fold src seed len t) :=
  h.of_sameFixed (fold_fixed _ _ _ _) (fold_fixed _ _ _ _) (fold_msg _ _ _ _) (fold_msg _ _ _ _)

theorem SameVisible.solve {s t : State} (h : SameVisible s t) (len : U32) (target : U16) :
    SameVisible (solve len target s).1 (solve len target t).1 :=
  h.of_sameFixed (solve_fixed _ _ _) (solve_fixed _ _ _) (solve_msg _ _ _) (solve_msg _ _ _)

theorem SameVisible.recoverDelta {s t : State} (h : SameVisible s t) (len : U32) (ecrc : U16) :
    SameVisible (recoverDelta len ecrc s) (recoverDelta len ecrc t) :=
  h.of_sameFixed (recoverDelta_fixed _ _ _) (recoverDelta_fixed _ _ _) (recoverDelta_msg _ _ _) (recoverDelta_msg _ _ _)

theorem SameVisible.foldBody {s t : State} (h : SameVisible s t) (src : ByteSource) :
    SameVisible (foldBody src s) (foldBody src t) :=
  ⟨h.tbl, h.sel, h.msg, h.msgcap, h.resetCount, h.input⟩

/-- A fold loop's result depends on the visible state and on its own two registers alone. -/
theorem SameVisible.foldLoop_r (src : ByteSource) (len : U32) (n : Nat) {s t : State} (h : SameVisible s t)
    (hr : s.r = t.r) (hi : s.idx = t.idx) : (foldLoop src len n s).r = (foldLoop src len n t).r := by
  induction n generalizing s t with
  | zero => exact hr
  | succ n ih =>
    have hb : s.nextByte src = t.nextByte src := by
      cases src with
      | buffer => simp only [State.nextByte, State.memRead, h.memByte, hi]
      | zeros => rfl
    rw [foldLoop, foldLoop, hi]
    split_ifs
    · refine ih (h.foldBody src) ?_ ?_
      · simp only [foldBody_r, State.stepByte, State.tblRead, h.tbl, hr, hb]
      · simp only [foldBody_idx, hi]
    · exact hr

/-- The start of a fold writes both registers, so nothing of them is left to depend on. -/
theorem SameVisible.fold_r {s t : State} (h : SameVisible s t) (src : ByteSource) (seed : U16) (len : U32) :
    (Machine.fold src seed len s).r = (Machine.fold src seed len t).r :=
  SameVisible.foldLoop_r src len _ (s := foldStart seed s) (t := foldStart seed t)
    ⟨h.tbl, h.sel, h.msg, h.msgcap, h.resetCount, h.input⟩ rfl rfl

theorem SameVisible.buildBasis_basis {s t : State} (h : SameVisible s t) (len : U32) :
    (buildBasis len s).basis = (buildBasis len t).basis := by
  refine Vector.ext fun i hi => ?_
  have hsel : s.selRead ⟨i, hi⟩ = t.selRead ⟨i, hi⟩ := by simp only [State.selRead, h.sel]
  calc (buildBasis len s).basis.get ⟨i, hi⟩
      = (Machine.fold .zeros (s.selRead ⟨i, hi⟩) len s).r := Machine.buildBasis_basis len s ⟨i, hi⟩
    _ = (Machine.fold .zeros (t.selRead ⟨i, hi⟩) len t).r := hsel ▸ h.fold_r .zeros _ len
    _ = (buildBasis len t).basis.get ⟨i, hi⟩ := (Machine.buildBasis_basis len t ⟨i, hi⟩).symm

/-- Everything that the search reads. -/
structure SameSearch (s t : State) : Prop where
  sel : s.sel = t.sel
  basis : s.basis = t.basis
  tgt : s.tgt = t.tgt
  tv : s.tv = t.tv
  cand : s.cand = t.cand
  k : s.k = t.k

theorem SameSearch.searchBody {s t : State} (h : SameSearch s t) : SameSearch (searchBody s) (searchBody t) where
  sel := h.sel
  basis := h.basis
  tgt := h.tgt
  tv := by simp only [searchBody_tv, State.basisRead, h.tv, h.basis, h.k]
  cand := by simp only [searchBody_cand, State.selRead, h.cand, h.sel, h.k]
  k := by simp only [searchBody_k, h.k]

theorem SameSearch.searchLoop_solution (n : Nat) {s t : State} (h : SameSearch s t) :
    (searchLoop n s).2 = (searchLoop n t).2 := by
  induction n generalizing s t with
  | zero => rfl
  | succ n ih =>
    have hb := h.searchBody
    simp only [searchLoop, h.k, hb.tv, hb.tgt, hb.cand]
    split_ifs
    · rfl
    · exact ih hb
    · rfl

/-- The basis phase writes every entry and the search starts its own registers, so the answer rests on the tables. -/
theorem SameVisible.solve_solution {s t : State} (h : SameVisible s t) (len : U32) (target : U16) :
    (Machine.solve len target s).2 = (Machine.solve len target t).2 :=
  SameSearch.searchLoop_solution _ {
    sel := by simp only [searchStart_sel, (buildBasis_fixed len _).sel, h.sel]
    basis := h.buildBasis_basis len
    tgt := rfl
    tv := rfl
    cand := rfl
    k := rfl }

/-- Both outcomes are next states, with the same response, that no host can tell apart. -/
def AnswerAlike (o o' : Host.Outcome State Fault Refusal) : Prop :=
  ∃ s' t', o = .next s' ∧ o' = .next t' ∧ s'.response = t'.response ∧ SameVisible s' t'

theorem SameVisible.answerAlike {s t : State} (h : SameVisible s t) (hr : s.response = t.response) :
    AnswerAlike (.next s) (.next t) :=
  ⟨s, t, rfl, rfl, hr, h⟩

theorem SameVisible.respond {s t : State} (h : SameVisible s t) (st : Status) (f : Bool) {v w : U16} (hv : v = w) :
    AnswerAlike (.next (s.respond st f v)) (.next (t.respond st f w)) :=
  hv ▸ SameVisible.answerAlike ⟨h.tbl, h.sel, h.msg, h.msgcap, h.resetCount, h.input⟩ rfl

theorem SameVisible.raise {s t : State} (h : SameVisible s t) (e : FrameError) : AnswerAlike (s.raise e) (t.raise e) :=
  h.respond e.status false rfl

theorem SameVisible.respondR_fold {s t : State} (h : SameVisible s t) (src : ByteSource) (seed : U16) (len : U32) :
    AnswerAlike (.next (respondR (Machine.fold src seed len s))) (.next (respondR (Machine.fold src seed len t))) :=
  (h.fold src seed len).respond .ok false (h.fold_r src seed len)

theorem SameVisible.respondSolution_solve {s t : State} (h : SameVisible s t) (len : U32) (target : U16) :
    AnswerAlike (.next (respondSolution (Machine.solve len target s)))
      (.next (respondSolution (Machine.solve len target t))) := by
  rw [respondSolution, respondSolution, h.solve_solution]
  exact (h.solve len target).respond .ok _ rfl

theorem SameVisible.exec {s t : State} (h : SameVisible s t) (i : Instr) : AnswerAlike (exec i s) (exec i t) := by
  have ha : ∀ a, s.beyondBuffer a = t.beyondBuffer a := fun a => by rw [State.beyondBuffer, State.beyondBuffer, h.msgcap]
  have hl : ∀ len, s.longerThanBuffer len = t.longerThanBuffer len := fun len => by
    rw [State.longerThanBuffer, State.longerThanBuffer, h.msgcap]
  cases i with
  | wrmsg a b =>
    simp only [Machine.exec, execWrmsg, ha]
    split_ifs
    · exact h.raise .range
    · exact (h.memWrite a b).respond .ok false rfl
  | rdmsg a =>
    simp only [Machine.exec, execRdmsg, ha]
    split_ifs
    · exact h.raise .range
    · exact h.respond .ok false (by rw [State.memRead, State.memRead, h.memByte])
  | crc16 seed len =>
    simp only [Machine.exec, execCrc16, hl]
    split_ifs
    · exact h.raise .range
    · exact h.respondR_fold .buffer seed len
  | prefixCrc seed len => exact h.respondR_fold .zeros seed len
  | findpfx len target => exact h.respondSolution_solve len target
  | recover len ecrc =>
    simp only [Machine.exec, execRecover, hl, recoverRun_eq_solve, h.fold_r]
    split_ifs
    · exact h.raise .range
    · exact (h.recoverDelta len ecrc).respondSolution_solve len _

theorem SameVisible.step {s t : State} (h : SameVisible s t) : AnswerAlike (step s) (step t) := by
  cases hs : s.input with
  | nil =>
    rw [step_of_no_event hs, step_of_no_event (h.input ▸ hs)]
    exact SameVisible.answerAlike ⟨h.tbl, h.sel, h.msg, h.msgcap, h.resetCount, h.input⟩ rfl
  | cons e rest =>
    have ht : t.input = e :: rest := h.input ▸ hs
    have hreset : (e = .reset ∨ ∃ cw, e = .resetDuring cw) → AnswerAlike (Machine.step s) (Machine.step t) := fun he => by
      rw [step_of_reset hs he, step_of_reset ht he]
      exact (h.takeEvent rest).takeReset.answerAlike rfl
    cases e with
    | command cw =>
      cases hd : decode cw with
      | command i =>
        rw [step_of_command hs hd, step_of_command ht hd]
        exact (h.takeEvent rest).exec i
      | illegal c =>
        rw [step_of_illegal hs hd, step_of_illegal ht hd]
        exact (h.takeEvent rest).raise .illegal
    | reset => exact hreset (.inl rfl)
    | resetDuring cw => exact hreset (.inr ⟨cw, rfl⟩)

/-- Settles O50: every command starts the working registers that it reads, so steps from states that differ in them
alone answer alike. -/
theorem workingRegistersAreUnobservable : Obligations.WorkingRegistersAreUnobservable :=
  fun _ _ h => h.step

end Sys2Proof.Machine
end

/-! ## Proofs of the statements about the message buffer (20_memory.md): the order of the checksum's bytes, a read after
a write, and the bytes that nothing has written -/

section
namespace Sys2Proof

/-! ### Two checksum bytes (R44, R139) -/

theorem crc16_append (seed : U16) (a b : List Byte) : crc16 seed (a ++ b) = crc16 (crc16 seed a) b := by
  induction a generalizing seed with
  | nil => rfl
  | cons x xs ih => exact ih (bytestep seed x)

@[simp] theorem hiByte_pairHiLo (x y : Byte) : hiByte (pairHiLo x y) = x := BitVec.extractLsb'_append_eq_left

@[simp] theorem loByte_pairHiLo (x y : Byte) : loByte (pairHiLo x y) = y := BitVec.extractLsb'_append_eq_right

theorem pairHiLo_inj {x y x' y' : Byte} : pairHiLo x y = pairHiLo x' y' ↔ x = x' ∧ y = y' := by
  constructor
  · intro h
    exact ⟨by simpa using congrArg hiByte h, by simpa using congrArg loByte h⟩
  · rintro ⟨rfl, rfl⟩
    rfl

/-- A word is its two bytes put together. -/
theorem pairHiLo_hiByte_loByte (r : U16) : pairHiLo (hiByte r) (loByte r) = r :=
  (BitVec.extractLsb'_append_extractLsb'_eq_extractLsb' rfl).trans BitVec.extractLsb'_eq_self

theorem shiftLeft_eq_pairHiLo (r : U16) : r <<< 8 = pairHiLo (loByte r) 0x00 := by
  ext i hi
  simp only [pairHiLo, loByte]
  grind

theorem hiByte_xor (r s : U16) : hiByte (r ^^^ s) = hiByte r ^^^ hiByte s := BitVec.extractLsb'_xor

theorem xor_pairHiLo_shiftLeft (r : U16) (x y : Byte) :
    (r ^^^ pairHiLo x y) <<< 8 = (r <<< 8) ^^^ pairHiLo y 0x00 := by
  rw [BitVec.shiftLeft_xor_distrib, shiftLeft_eq_pairHiLo (pairHiLo x y), loByte_pairHiLo]

/-- A step folds its byte into the high half of the register, and the low half comes up by one byte (R90): a pair that
stands in the register beforehand is one byte folded in and the next one waiting. -/
theorem bytestep_xor_pairHiLo (r : U16) (x y : Byte) :
    bytestep (r ^^^ pairHiLo x y) 0x00 = bytestep r x ^^^ pairHiLo y 0x00 := by
  simp only [bytestep, hiByte_xor, hiByte_pairHiLo, xor_pairHiLo_shiftLeft, BitVec.ofNat_eq_ofNat, BitVec.xor_zero,
    BitVec.xor_assoc]

theorem loByte_tblgen_eq_zero : ∀ k : Byte, loByte (tblgen k) = 0 → k = 0 := by decide

/-- Only the table's entry 0 has a zero low byte, so a zero result leaves both bytes of the register zero. -/
theorem bytestep_zero_eq_zero {r : U16} : bytestep r 0x00 = 0x0000 ↔ r = 0x0000 := by
  constructor
  · intro h
    have ht : tblgen (hiByte r) = pairHiLo (loByte r) 0x00 := by
      rw [← Machine.crcTable_get, ← shiftLeft_eq_pairHiLo]
      simpa [bytestep, BitVec.xor_eq_zero_iff] using h
    have hhi : hiByte r = 0 := loByte_tblgen_eq_zero _ (by rw [ht, loByte_pairHiLo])
    have hlo : pairHiLo 0x00 0x00 = pairHiLo (loByte r) 0x00 := by rw [← ht, hhi]; rfl
    rw [← pairHiLo_hiByte_loByte r, hhi, ← (pairHiLo_inj.mp hlo).1]
    rfl
  · rintro rfl
    decide

theorem crc16_pair_eq_zero (r : U16) (x y : Byte) : crc16 r [x, y] = 0x0000 ↔ pairHiLo x y = r := by
  have hx := bytestep_xor_pairHiLo r x y
  have hy : bytestep (bytestep r x ^^^ pairHiLo y 0x00) 0x00 = bytestep (bytestep r x) y :=
    (bytestep_xor_pairHiLo _ y 0x00).trans BitVec.xor_zero
  calc crc16 r [x, y] = 0x0000 ↔ bytestep (bytestep (r ^^^ pairHiLo x y) 0x00) 0x00 = 0x0000 := by rw [hx, hy]; rfl
    _ ↔ r ^^^ pairHiLo x y = 0x0000 := bytestep_zero_eq_zero.trans bytestep_zero_eq_zero
    _ ↔ pairHiLo x y = r := by rw [BitVec.ofNat_eq_ofNat, BitVec.xor_eq_zero_iff, eq_comm]

/-- Settles O28: the pair XORed into the register passes through two steps of a zero byte, and such a step answers zero
from zero alone. -/
theorem checksumPairVerifies : Obligations.ChecksumPairVerifies := by
  have hm : ∀ (m : List Byte) (x y : Byte), crc16 0x0000 (m ++ [x, y]) = 0x0000 ↔ pairHiLo x y = crc16 0x0000 m :=
    fun m x y => by rw [crc16_append, crc16_pair_eq_zero]
  have hv : crc16 0x0000 [0x12, 0x34] = pairHiLo 0x13 0xC6 := by decide
  exact ⟨hm, fun x y => (hm [0x12, 0x34] x y).trans (by rw [hv, pairHiLo_inj])⟩

/-! ### Decoding inverts encoding (R65) -/

theorem decode_encode (i : Instr) : decode (encode i) = .command i := by
  cases i <;> simp [decode, encode, opcode]

/-- `ARG` with a zero high half is its low half extended (R62). -/
theorem zext16_cwArgLo {cw : U64} (h : cwArgHi cw = 0x00) : zext16 (cwArgLo cw) = cwArg cw := by
  have : pairHiLo (cwArgHi cw) (cwArgLo cw) = cwArg cw := by
    simp only [pairHiLo, cwArgHi, cwArgLo, cwArg]
    exact BitVec.extractLsb'_append_extractLsb'_eq_extractLsb' rfl
  rw [← this, h, pairHiLo, zext16, BitVec.setWidth_eq_append (by decide)]
  rfl

theorem commandWord_of_fields {cw : U64} {op : Byte} {arg : U16} (hrsv : ¬cwRsv cw ≠ 0x00) (hop : cwOp cw = op)
    (harg : arg = cwArg cw) : commandWord op 0x00 arg (cwLen cw) = cw := by
  rw [← hop, harg, ← not_not.mp hrsv, commandWord_fields]

theorem encode_of_decode {cw : U64} {i : Instr} (h : decode cw = .command i) : encode i = cw := by
  simp only [decode] at h
  split_ifs at h with hrsv h01 hhi h02 harg h10 h11 h20 h21 <;> cases h
  · exact commandWord_of_fields hrsv h01 (zext16_cwArgLo (not_not.mp hhi))
  · exact commandWord_of_fields hrsv h02 (not_not.mp harg).symm
  · exact commandWord_of_fields hrsv h10 rfl
  · exact commandWord_of_fields hrsv h11 rfl
  · exact commandWord_of_fields hrsv h20 rfl
  · exact commandWord_of_fields hrsv h21 rfl

end Sys2Proof

namespace Sys2Proof.Machine

/-! ### A read after a write, through other events (R50 clause (a), R52) -/

/-- The byte `v` stands written at the address `a` of the buffer. -/
structure HoldsByte (a : U32) (v : Byte) (s : State) : Prop where
  inBuffer : a.toNat < s.msgcap
  found : s.msg.find a.toNat = some v

/-- An event that is neither a reset nor a WRMSG to the address: it leaves the byte there alone. -/
def LeavesByte (a : U32) (e : HostEvent) : Prop :=
  e ≠ .reset ∧ (∀ cw, e ≠ .resetDuring cw) ∧ ∀ b, e ≠ .command (encode (.wrmsg a b))

theorem HoldsByte.exec {a : U32} {v : Byte} {i : Instr} {s t : State} (h : HoldsByte a v s) (hi : ∀ b, i ≠ .wrmsg a b)
    (he : exec i s = .next t) : HoldsByte a v t := by
  obtain ⟨u, st, f, w, hu, hf, hm⟩ := exec_ends i s
  cases hu.symm.trans he
  refine ⟨hf.msgcap ▸ h.inBuffer, ?_⟩
  obtain hm | ⟨a', b, rfl, -, hm⟩ := hm
  · rw [State.respond_msg, hm, h.found]
  · have hne : a.toNat ≠ a'.toNat := fun ha => hi b (by rw [BitVec.eq_of_toNat_eq ha])
    rw [State.respond_msg, hm, Memory.find_put_of_ne _ _ hne, h.found]

theorem HoldsByte.step {a : U32} {v : Byte} {s : State} {e : HostEvent} {rest : List HostEvent} (h : HoldsByte a v s)
    (hs : s.input = e :: rest) (he : LeavesByte a e) : ∃ t, step s = .next t ∧ t.input = rest ∧ HoldsByte a v t := by
  obtain ⟨hreset, hduring, hwrite⟩ := he
  have hk : HoldsByte a v (s.takeEvent rest) := ⟨h.inBuffer, h.found⟩
  cases e with
  | reset => exact absurd rfl hreset
  | resetDuring cw => exact absurd rfl (hduring cw)
  | command cw =>
    cases hd : decode cw with
    | illegal c => exact ⟨_, step_of_illegal hs hd, rfl, hk.inBuffer, hk.found⟩
    | command i =>
      obtain ⟨u, st, f, w, hu, hf, -⟩ := exec_ends i (s.takeEvent rest)
      refine ⟨_, (step_of_command hs hd).trans hu, hf.input, hk.exec (fun b hb => hwrite b ?_) hu⟩
      rw [← hb, encode_of_decode hd]

/-- The WRMSG stores the byte. -/
theorem holdsByte_of_step_wrmsg {a : U32} {v : Byte} {s : State} {rest : List HostEvent}
    (hs : s.input = .command (encode (.wrmsg a v)) :: rest) (ha : a.toNat < s.msgcap) :
    ∃ t, step s = .next t ∧ t.input = rest ∧ HoldsByte a v t :=
  ⟨_, (step_of_command hs (decode_encode _)).trans (execWrmsg_ok (s := s.takeEvent rest) ha v), rfl, ha,
    Memory.find_put_self s.msg a.toNat v⟩

/-- The RDMSG answers the byte. -/
theorem HoldsByte.step_rdmsg {a : U32} {v : Byte} {s : State} {rest : List HostEvent} (h : HoldsByte a v s)
    (hs : s.input = .command (encode (.rdmsg a)) :: rest) :
    ∃ t, Machine.step s = .next t ∧ t.response = some (responseWord .ok false (zext16 v)) := by
  refine ⟨_, (step_of_command hs (decode_encode _)).trans (execRdmsg_ok (s := s.takeEvent rest) h.inBuffer), ?_⟩
  rw [State.respond_response, State.memRead, memByte_of_written (s := s.takeEvent rest) h.found]

theorem run_succ_of_step {M : Host.Core} {s t : M.State} (h : M.step s = .next t) (n : Nat) :
    M.run (n + 1) s = M.run n t := by
  rw [Host.Core.run, h]

/-- The events between keep the byte one by one, and the RDMSG after them answers it. -/
theorem HoldsByte.run_rdmsg {a : U32} {v : Byte} {s : State} {between rest : List HostEvent} (h : HoldsByte a v s)
    (hs : s.input = between ++ .command (encode (.rdmsg a)) :: rest) (hb : ∀ e ∈ between, LeavesByte a e) :
    ∃ t, Host.Core.run core (between.length + 1) s = .next t ∧
      t.response = some (responseWord .ok false (zext16 v)) := by
  induction between generalizing s with
  | nil =>
    obtain ⟨t, ht, hr⟩ := h.step_rdmsg hs
    exact ⟨t, run_succ_of_step (M := core) ht 0, hr⟩
  | cons e es ih =>
    obtain ⟨he, hes⟩ := List.forall_mem_cons.mp hb
    obtain ⟨t, ht, hti, hth⟩ := h.step hs he
    rw [List.length_cons, run_succ_of_step (M := core) ht]
    exact ih hth hti hes

/-- Settles O43: from the WRMSG on the byte stands written, every event between keeps it so, and RDMSG answers it. -/
theorem readReturnsTheLastWrite : Obligations.ReadReturnsTheLastWrite := by
  intro s a v between rest ha hs hb
  obtain ⟨t, ht, hti, hth⟩ := holdsByte_of_step_wrmsg hs ha
  rw [run_succ_of_step (M := core) ht]
  exact hth.run_rdmsg hti hb

/-! ### Bytes that nothing has written (R49, R182) -/

/-- A buffer fold depends on the state through `TBL` and the bytes below `L` alone. -/
theorem foldLoop_buffer_congr (len : U32) (n : Nat) {s t : State} (ht : s.tbl = t.tbl)
    (hm : ∀ j < len.toNat, s.memByte j = t.memByte j) (hr : s.r = t.r) (hi : s.idx = t.idx) :
    (foldLoop .buffer len n s).r = (foldLoop .buffer len n t).r := by
  induction n generalizing s t with
  | zero => exact hr
  | succ n ih =>
    rw [foldLoop, foldLoop, ← hi]
    split_ifs with hlt
    · have hb : s.memRead s.idx = t.memRead t.idx := hi ▸ hm _ hlt
      refine ih (s := foldBody .buffer s) (t := foldBody .buffer t) ht hm ?_ ?_
      · simp only [foldBody_r, State.stepByte, State.tblRead, State.nextByte, ht, hr, hb]
      · simp only [foldBody_idx, hi]
    · exact hr

theorem fold_buffer_congr {s t : State} (ht : s.tbl = t.tbl) (seed : U16) {len : U32}
    (hm : ∀ j < len.toNat, s.memByte j = t.memByte j) :
    (fold .buffer seed len s).r = (fold .buffer seed len t).r :=
  foldLoop_buffer_congr len _ (s := foldStart seed s) (t := foldStart seed t) ht hm rfl rfl

/-- The solver's answer rests on the two read-only tables alone. -/
theorem solve_solution_congr {s t : State} (ht : s.tbl = t.tbl) (hs : s.sel = t.sel) (len : U32) (target : U16) :
    (solve len target s).2 = (solve len target t).2 := by
  have hb : ∀ i, (buildBasis len s).basis.get i = (buildBasis len t).basis.get i := fun i => by
    rw [buildBasis_basis, buildBasis_basis, State.selRead, State.selRead, hs, fold_zeros_congr ht]
  exact SameSearch.searchLoop_solution _ {
    sel := (buildBasis_fixed len s).sel.trans (hs.trans (buildBasis_fixed len t).sel.symm)
    basis := Vector.ext fun i hi => hb ⟨i, hi⟩
    tgt := rfl
    tv := rfl
    cand := rfl
    k := rfl }

@[simp] theorem respondR_response (s : State) : (respondR s).response = some (responseWord .ok false s.r) := rfl

@[simp] theorem respondSolution_response (p : State × Solution) :
    (respondSolution p).response = some (responseWord .ok p.2.found p.2.value) := rfl

/-- Two blocks with the same tables, capacity and written bytes. What an unwritten byte reads as may differ (R32). -/
structure SameWritten (s t : State) : Prop where
  tbl : s.tbl = t.tbl
  sel : s.sel = t.sel
  msg : s.msg = t.msg
  msgcap : s.msgcap = t.msgcap

theorem SameWritten.memByte {s t : State} (h : SameWritten s t) {a : Nat} (hw : s.written a = true) :
    s.memByte a = t.memByte a := by
  obtain ⟨v, hv⟩ := Option.isSome_iff_exists.mp hw
  rw [memByte_of_written hv, memByte_of_written (h.msg ▸ hv)]

theorem SameWritten.fold_buffer_r {s t : State} (h : SameWritten s t) (seed : U16) {len : U32}
    (hw : ∀ j < len.toNat, s.written j = true) : (fold .buffer seed len s).r = (fold .buffer seed len t).r :=
  fold_buffer_congr h.tbl seed fun j hj => h.memByte (hw j hj)

/-- RECOVER is a solve from the target that phase 0 left, so its answer rests on the tables and the written bytes. -/
theorem SameWritten.recoverRun_solution {s t : State} (h : SameWritten s t) {len : U32} (ecrc : U16)
    (hw : ∀ j < len.toNat, s.written j = true) : (recoverRun len ecrc s).2 = (recoverRun len ecrc t).2 := by
  rw [recoverRun_eq_solve, recoverRun_eq_solve, h.fold_buffer_r 0x0000 hw]
  have hs := recoverDelta_fixed len ecrc s
  have ht := recoverDelta_fixed len ecrc t
  exact solve_solution_congr (hs.tbl.trans (h.tbl.trans ht.tbl.symm)) (hs.sel.trans (h.sel.trans ht.sel.symm)) len _

/-- What R182 asks of a RDMSG in range. -/
theorem written_of_readsOnlyWritten_rdmsg {s : State} {a : U32} (h : readsOnlyWritten (.rdmsg a) s = true)
    (hr : a.toNat < s.msgcap) : s.written a.toNat = true := by
  refine (Bool.or_eq_true_iff.mp h).resolve_left ?_
  rw [beyondBuffer_iff]
  omega

/-- What R182 asks of a command that reads a message in range: CRC16 and RECOVER alike. -/
theorem written_of_readsOnlyWritten_message {s : State} {len : U32}
    (h : (s.longerThanBuffer len || (List.range len.toNat).all s.written) = true) (hr : len.toNat ≤ s.msgcap) :
    ∀ j < len.toNat, s.written j = true := by
  have hall := (Bool.or_eq_true_iff.mp h).resolve_left (by rw [longerThanBuffer_iff]; omega)
  exact fun j hj => List.all_eq_true.mp hall j (List.mem_range.mpr hj)

/-- A command that keeps to R182 answers alike over blocks that differ in what nothing has written. -/
theorem SameWritten.exec_response {s t : State} (h : SameWritten s t) {i : Instr} (hi : readsOnlyWritten i s = true) :
    ∃ s' t', exec i s = .next s' ∧ exec i t = .next t' ∧ s'.response = t'.response := by
  cases i with
  | wrmsg a b =>
    rcases Nat.lt_or_ge a.toNat s.msgcap with hr | hr
    · exact ⟨_, _, execWrmsg_ok hr b, execWrmsg_ok (h.msgcap ▸ hr) b, rfl⟩
    · exact ⟨_, _, execWrmsg_range hr b, execWrmsg_range (h.msgcap ▸ hr) b, rfl⟩
  | rdmsg a =>
    rcases Nat.lt_or_ge a.toNat s.msgcap with hr | hr
    · refine ⟨_, _, execRdmsg_ok hr, execRdmsg_ok (h.msgcap ▸ hr), ?_⟩
      rw [State.respond_response, State.respond_response, State.memRead, State.memRead,
        h.memByte (written_of_readsOnlyWritten_rdmsg hi hr)]
    · exact ⟨_, _, execRdmsg_range hr, execRdmsg_range (h.msgcap ▸ hr), rfl⟩
  | crc16 seed len =>
    rcases Nat.lt_or_ge s.msgcap len.toNat with hr | hr
    · exact ⟨_, _, execCrc16_range hr seed, execCrc16_range (h.msgcap ▸ hr) seed, rfl⟩
    · refine ⟨_, _, execCrc16_ok hr seed, execCrc16_ok (h.msgcap ▸ hr) seed, ?_⟩
      rw [respondR_response, respondR_response, h.fold_buffer_r seed (written_of_readsOnlyWritten_message hi hr)]
  | prefixCrc seed len =>
    refine ⟨_, _, rfl, rfl, ?_⟩
    rw [respondR_response, respondR_response, fold_zeros_congr h.tbl]
  | findpfx len target =>
    refine ⟨_, _, rfl, rfl, ?_⟩
    rw [respondSolution_response, respondSolution_response, solve_solution_congr h.tbl h.sel]
  | recover len ecrc =>
    rcases Nat.lt_or_ge s.msgcap len.toNat with hr | hr
    · exact ⟨_, _, execRecover_range hr ecrc, execRecover_range (h.msgcap ▸ hr) ecrc, rfl⟩
    · refine ⟨_, _, execRecover_ok hr ecrc, execRecover_ok (h.msgcap ▸ hr) ecrc, ?_⟩
      rw [respondSolution_response, respondSolution_response,
        h.recoverRun_solution ecrc (written_of_readsOnlyWritten_message hi hr)]

/-- The reset count selects what an unwritten byte reads as and nothing else (log 2). -/
theorem sameWritten_resetCount (s : State) (n : Nat) : SameWritten s { s with resetCount := n } :=
  ⟨rfl, rfl, rfl, rfl⟩

/-- Settles O51: what a command reads is written, and a written byte does not depend on the reset count. -/
theorem unspecifiedContentsDoNotReachTheResponse : Obligations.UnspecifiedContentsDoNotReachTheResponse :=
  ⟨fun _ s n hi => (sameWritten_resetCount s n).exec_response hi, fun _ _ _ => ⟨rfl, rfl⟩⟩

end Sys2Proof.Machine
end

/-! ## Proofs of the statements about the encoding (30_encoding.md): words as numbers, the decoder, the opcode map, the
assembler, and the response to a command word -/

section
namespace Sys2Proof

/-! ### Words as numbers (R60, R61) -/

/-- Concatenation puts the high part above the low one. -/
theorem toNat_append_eq_add {m n : Nat} (x : BitVec m) (y : BitVec n) :
    (x ++ y).toNat = x.toNat * 2 ^ n + y.toNat := by
  rw [BitVec.toNat_append, ← Nat.shiftLeft_add_eq_or_of_lt y.isLt, Nat.shiftLeft_eq]

theorem commandWord_toNat (op rsv : Byte) (arg : U16) (len : U32) :
    (commandWord op rsv arg len).toNat =
      op.toNat * 2 ^ 56 + rsv.toNat * 2 ^ 48 + arg.toNat * 2 ^ 32 + len.toNat := by
  simp only [commandWord, toNat_append_eq_add]
  omega

/-- A legal word's reserved byte is zero and adds nothing (R63). -/
theorem commandWord_rsv_zero_toNat (op : Byte) (arg : U16) (len : U32) :
    (commandWord op 0x00 arg len).toNat = op.toNat * 2 ^ 56 + arg.toNat * 2 ^ 32 + len.toNat := by
  rw [commandWord_toNat]
  simp

@[simp] theorem zext16_toNat (b : Byte) : (zext16 b).toNat = b.toNat :=
  BitVec.toNat_setWidth_of_le (by decide)

theorem responseWord_toNat (st : Machine.Status) (f : Bool) (v : U16) :
    (Machine.responseWord st f v).toNat = st.code.toNat * 2 ^ 24 + f.toNat * 2 ^ 16 + v.toNat := by
  simp only [Machine.responseWord, Machine.foundBit, toNat_append_eq_add, BitVec.toNat_ofBool, BitVec.toNat_zero]
  omega

/-- Settles O1: a word is its fields put together, and a field is a quotient and a remainder by powers of two. -/
theorem commandWordIsItsFields : Obligations.CommandWordIsItsFields := by
  intro cw
  have hnum := commandWord_toNat (cwOp cw) (cwRsv cw) (cwArg cw) (cwLen cw)
  rw [commandWord_fields] at hnum
  have hop := (cwOp cw).isLt
  have hrsv := (cwRsv cw).isLt
  have harg := (cwArg cw).isLt
  have hlen := (cwLen cw).isLt
  refine ⟨hnum, ?_, ?_, ?_, ?_⟩ <;> omega

/-! ### Decoding and encoding are inverse (R64, R65) -/

theorem decode_eq_command_iff {cw : U64} {i : Instr} : decode cw = .command i ↔ encode i = cw :=
  ⟨encode_of_decode, fun h => h ▸ decode_encode i⟩

theorem decode_illegal_iff_not_encoded (cw : U64) : (∃ e, decode cw = .illegal e) ↔ ¬ ∃ c, encode c = cw := by
  simp only [← decode_eq_command_iff]
  cases decode cw <;> simp

/-- Settles O2: the decoder's seven outcomes are the six commands, each read from its own word alone, and illegal. -/
theorem decodeAndEncodeAgree : Obligations.DecodeAndEncodeAgree := by
  refine ⟨decode_encode, fun _ _ => encode_of_decode, decode_illegal_iff_not_encoded, ?_, ?_, ?_, ?_, ?_, ?_⟩
  · intro a byte
    exact (commandWord_rsv_zero_toNat 0x01 (zext16 byte) a).trans (by rw [zext16_toNat]; rfl)
  · intro a
    exact commandWord_rsv_zero_toNat 0x02 0x0000 a
  · exact commandWord_rsv_zero_toNat 0x10
  · exact commandWord_rsv_zero_toNat 0x11
  · exact fun len target => commandWord_rsv_zero_toNat 0x20 target len
  · exact fun len ecrc => commandWord_rsv_zero_toNat 0x21 ecrc len

/-- The illegal words as R64 lists them. -/
def IllegalWord (cw : U64) : Prop :=
  cwOp cw ∉ ([0x01, 0x02, 0x10, 0x11, 0x20, 0x21] : List Byte) ∨ cwRsv cw ≠ 0x00 ∨
    (cwOp cw = 0x01 ∧ cwArgHi cw ≠ 0x00) ∨ (cwOp cw = 0x02 ∧ cwArg cw ≠ 0x0000)

/-- Each refusal of the decode procedure (R65) is for one of R64's causes. -/
theorem illegalWord_of_decode {cw : U64} {e : IllegalCause} (h : decode cw = .illegal e) : IllegalWord cw := by
  simp only [decode] at h
  split_ifs at h with hrsv h01 hhi h02 harg h10 h11 h20 h21
  · exact .inr (.inl hrsv)
  · exact .inr (.inr (.inl ⟨h01, hhi⟩))
  · exact .inr (.inr (.inr ⟨h02, harg⟩))
  · exact .inl (by simpa using ⟨h01, h02, h10, h11, h20, h21⟩)

/-- An encoding has a known opcode, a zero reserved byte, and zero bits where its row fixes them (R63). -/
theorem not_illegalWord_encode (i : Instr) : ¬ IllegalWord (encode i) := by
  cases i <;> simp [IllegalWord, encode, opcode]

theorem decode_illegal_iff (cw : U64) : (∃ e, decode cw = .illegal e) ↔ IllegalWord cw := by
  constructor
  · rintro ⟨e, he⟩
    exact illegalWord_of_decode he
  · intro h
    rw [decode_illegal_iff_not_encoded]
    rintro ⟨c, rfl⟩
    exact not_illegalWord_encode c h

/-- Settles O5: every worked word is the encoding of its command, and every response is a closed word. -/
theorem workedEncodingsDecode : Obligations.WorkedEncodingsDecode :=
  ⟨decode_encode (.wrmsg 0 0x12), decode_encode (.rdmsg 1), decode_encode (.crc16 0xFFFF 9),
    decode_encode (.prefixCrc 0x0001 1), decode_encode (.findpfx 0 0xABCD), decode_encode (.recover 2 0x0EC9),
    rfl, rfl, rfl, rfl, rfl⟩

/-! ### The opcode map as masks and matches (R63) -/

/-- The bits of `ARG` that must be zero in a word with this opcode: what the mask column keeps of `ARG`. -/
def fixedArgBits (op : Byte) : U16 :=
  if op = 0x01 then pairHiLo 0xFF 0x00 else if op = 0x02 then 0xFFFF else 0x0000

theorem rowMask_eq (j : Instr) : rowMask j = commandWord 0xFF 0xFF (fixedArgBits (opcode j)) 0 := by
  apply BitVec.eq_of_toNat_eq
  rw [commandWord_toNat]
  cases j <;> simp [rowMask, opcode, fixedArgBits, pairHiLo]

theorem rowMatch_eq (j : Instr) : rowMatch j = commandWord (opcode j) 0x00 0x0000 0 := by
  apply BitVec.eq_of_toNat_eq
  rw [commandWord_toNat]
  cases j <;> simp [rowMatch, opcode]

theorem commandWord_and (op rsv op' rsv' : Byte) (arg arg' : U16) (len len' : U32) :
    commandWord op rsv arg len &&& commandWord op' rsv' arg' len' =
      commandWord (op &&& op') (rsv &&& rsv') (arg &&& arg') (len &&& len') := by
  simp only [commandWord, ← BitVec.and_append]

theorem commandWord_inj {op rsv op' rsv' : Byte} {arg arg' : U16} {len len' : U32} :
    commandWord op rsv arg len = commandWord op' rsv' arg' len' ↔
      op = op' ∧ rsv = rsv' ∧ arg = arg' ∧ len = len' := by
  constructor
  · intro h
    exact ⟨by simpa using congrArg cwOp h, by simpa using congrArg cwRsv h, by simpa using congrArg cwArg h,
      by simpa using congrArg cwLen h⟩
  · rintro ⟨rfl, rfl, rfl, rfl⟩
    rfl

theorem rowMask_eq_of_opcode_eq {i j : Instr} (h : opcode i = opcode j) : rowMask i = rowMask j := by
  rw [rowMask_eq, rowMask_eq, h]

theorem rowMatch_eq_iff {i j : Instr} : rowMatch i = rowMatch j ↔ opcode i = opcode j := by
  simp [rowMatch_eq, commandWord_inj]

/-- A word matches a row when its opcode is the row's and its fixed fields are zero. -/
theorem matches_row_iff (cw : U64) (j : Instr) :
    cw &&& rowMask j = rowMatch j ↔
      cwOp cw = opcode j ∧ cwRsv cw = 0x00 ∧ cwArg cw &&& fixedArgBits (opcode j) = 0x0000 := by
  have hff : ∀ b : Byte, b &&& 0xFF = b := fun _ => BitVec.and_allOnes
  conv_lhs => rw [← commandWord_fields cw, rowMask_eq, rowMatch_eq, commandWord_and, commandWord_inj, hff, hff]
  simp

theorem and_pairHiLo (r : U16) (x y : Byte) : r &&& pairHiLo x y = pairHiLo (hiByte r &&& x) (loByte r &&& y) := by
  rw [← pairHiLo_hiByte_loByte r]
  simp only [hiByte_pairHiLo, loByte_pairHiLo]
  exact BitVec.and_append

theorem and_high_eq_zero_iff (r : U16) : r &&& pairHiLo 0xFF 0x00 = 0x0000 ↔ hiByte r = 0x00 := by
  have hff : hiByte r &&& 0xFF = hiByte r := BitVec.and_allOnes
  have hz : (0x0000 : U16) = pairHiLo 0x00 0x00 := rfl
  rw [and_pairHiLo, hff, hz, pairHiLo_inj]
  simp

theorem hiByte_cwArg (cw : U64) : hiByte (cwArg cw) = cwArgHi cw := by
  rw [← commandWord_fields cw, cwArg_commandWord, cwArgHi_commandWord]

theorem encode_matches_row (i : Instr) : encode i &&& rowMask i = rowMatch i := by
  rw [matches_row_iff]
  cases i with
  | wrmsg a byte => simpa [encode, opcode, fixedArgBits] using (and_high_eq_zero_iff _).mpr (hiByte_zext16 byte)
  | rdmsg | crc16 | prefixCrc | findpfx | recover => simp [encode, opcode, fixedArgBits]

theorem exists_encode_of_matches_row {cw : U64} {j : Instr} (h : cw &&& rowMask j = rowMatch j) :
    ∃ i, encode i = cw ∧ opcode i = opcode j := by
  obtain ⟨hop, hrsv, harg⟩ := (matches_row_iff cw j).mp h
  have hrsv := not_not.mpr hrsv
  cases j with
  | wrmsg =>
    have hhi : cwArgHi cw = 0x00 := (hiByte_cwArg cw).symm.trans ((and_high_eq_zero_iff _).mp harg)
    exact ⟨.wrmsg (cwLen cw) (cwArgLo cw), commandWord_of_fields hrsv hop (zext16_cwArgLo hhi), rfl⟩
  | rdmsg =>
    have hz : cwArg cw = 0x0000 := BitVec.and_allOnes.symm.trans harg
    exact ⟨.rdmsg (cwLen cw), commandWord_of_fields hrsv hop hz.symm, rfl⟩
  | crc16 => exact ⟨.crc16 (cwArg cw) (cwLen cw), commandWord_of_fields hrsv hop rfl, rfl⟩
  | prefixCrc => exact ⟨.prefixCrc (cwArg cw) (cwLen cw), commandWord_of_fields hrsv hop rfl, rfl⟩
  | findpfx => exact ⟨.findpfx (cwLen cw) (cwArg cw), commandWord_of_fields hrsv hop rfl, rfl⟩
  | recover => exact ⟨.recover (cwLen cw) (cwArg cw), commandWord_of_fields hrsv hop rfl, rfl⟩

/-- Settles O3: a word that matches a row is the encoding of a command of that row, and an encoding matches
its own row. -/
theorem opcodeRowsDecideTheCommand : Obligations.OpcodeRowsDecideTheCommand := by
  intro cw j
  simp only [decode_eq_command_iff, rowMatch_eq_iff]
  constructor
  · exact exists_encode_of_matches_row
  · rintro ⟨i, rfl, hij⟩
    rw [← rowMask_eq_of_opcode_eq hij, ← rowMatch_eq_iff.mpr hij, encode_matches_row]

/-! ### The assembler (R66, R67) -/

/-- The word of operands that fit their fields is the number R66 gives. -/
theorem commandWord_ofNat {arg len : Nat} (op : Byte) (harg : arg ≤ 0xFFFF) (hlen : len ≤ 0xFFFFFFFF) :
    commandWord op 0x00 (BitVec.ofNat 16 arg) (BitVec.ofNat 32 len) =
      BitVec.ofNat 64 (op.toNat * 2 ^ 56 + arg * 2 ^ 32 + len) := by
  have hop := op.isLt
  apply BitVec.eq_of_toNat_eq
  rw [commandWord_rsv_zero_toNat, BitVec.toNat_ofNat, BitVec.toNat_ofNat, BitVec.toNat_ofNat]
  omega

/-- A byte that fits its field is extended as the number it is. -/
theorem zext16_ofNat {b : Nat} (h : b ≤ 0xFF) : zext16 (BitVec.ofNat 8 b) = BitVec.ofNat 16 b := by
  apply BitVec.eq_of_toNat_eq
  rw [zext16_toNat, BitVec.toNat_ofNat, BitVec.toNat_ofNat]
  omega

/-- A line that stands for one command assembles to that command's word exactly when its operands fit. -/
theorem assemble_of_one_command {l : AsmLine} {i : Instr} {fits : Prop} [Decidable fits] {n : Nat}
    (hx : expandLine l = [i]) (hw : l.wellFormed = true ↔ fits) (hn : fits → encode i = BitVec.ofNat 64 n) :
    assemble l = if fits then some [BitVec.ofNat 64 n] else none := by
  by_cases h : fits
  · rw [assemble, if_pos (hw.mpr h), if_pos h, hx, List.map_singleton, hn h]
  · rw [assemble, if_neg (fun hl => h (hw.mp hl)), if_neg h]

theorem two_fields_fit_iff (m n x y : Nat) : (decide (m ≤ x) && decide (n ≤ y)) = true ↔ m ≤ x ∧ n ≤ y := by
  simp

theorem assemble_wrmsg (a byte : Nat) :
    assemble (.wrmsg a byte) = if a ≤ 0xFFFFFFFF ∧ byte ≤ 0xFF then
      some [BitVec.ofNat 64 (0x01 * 2 ^ 56 + byte * 2 ^ 32 + a)] else none := by
  refine assemble_of_one_command rfl (two_fields_fit_iff a byte _ _) fun h => ?_
  have hb := zext16_ofNat h.2
  exact (congrArg (commandWord 0x01 0x00 · _) hb).trans (commandWord_ofNat 0x01 (by omega) h.1)

/-- Settles O52: an operand that fits its field stands there unchanged, so the word is the number of its fields. -/
theorem assemblerEncodesOrRefusesEachLine : Obligations.AssemblerEncodesOrRefusesEachLine := by
  refine ⟨assemble_wrmsg, fun a => ?_, fun seed len => ?_, fun seed len => ?_, fun len target => ?_, fun len ecrc => ?_⟩
  · exact assemble_of_one_command rfl decide_eq_true_iff fun h => commandWord_ofNat 0x02 (Nat.zero_le _) h
  · exact assemble_of_one_command rfl (two_fields_fit_iff seed len _ _) fun h => commandWord_ofNat 0x10 h.1 h.2
  · exact assemble_of_one_command rfl (two_fields_fit_iff seed len _ _) fun h => commandWord_ofNat 0x11 h.1 h.2
  · exact assemble_of_one_command rfl (two_fields_fit_iff len target _ _) fun h => commandWord_ofNat 0x20 h.2 h.1
  · exact assemble_of_one_command rfl (two_fields_fit_iff len ecrc _ _) fun h => commandWord_ofNat 0x21 h.2 h.1

theorem fillCommands_length (a : Nat) (bytes : List Nat) : (fillCommands a bytes).length = bytes.length := by
  induction bytes generalizing a with
  | nil => rfl
  | cons b bs ih => simp [fillCommands, ih]

/-- Command `j` of a FILL stores byte `j` at the `j`-th address. -/
theorem fillCommands_getElem? (a : Nat) (bytes : List Nat) (j : Nat) :
    (fillCommands a bytes)[j]? = bytes[j]?.map fun b => .wrmsg (BitVec.ofNat 32 (a + j)) (BitVec.ofNat 8 b) := by
  induction bytes generalizing a j with
  | nil => rfl
  | cons b bs ih =>
    cases j with
    | zero => rfl
    | succ j =>
      rw [fillCommands, List.getElem?_cons_succ, List.getElem?_cons_succ, ih, Nat.add_right_comm, Nat.add_assoc]

theorem wellFormed_fill {a : Nat} {bytes : List Nat} (hne : bytes ≠ []) (ha : a + (bytes.length - 1) ≤ 0xFFFFFFFF)
    (hb : ∀ b ∈ bytes, b ≤ 0xFF) : (AsmLine.fill a bytes).wellFormed = true := by
  simpa [AsmLine.wellFormed, AsmLine.fitsLen, AsmLine.fitsByte, hne] using And.intro ha hb

/-- Settles O53: FILL's command `j` is the one that the line WRMSG a+j, bj stands for. -/
theorem fillIsItsWrmsgCommandsInOrder : Obligations.FillIsItsWrmsgCommandsInOrder := by
  intro a bytes hne ha hb
  refine ⟨(fillCommands a bytes).map encode, if_pos (wellFormed_fill hne ha hb), ?_, fun j b hj => ?_⟩
  · rw [List.length_map, fillCommands_length]
  · obtain ⟨hlt, hjb⟩ := List.getElem?_eq_some_iff.mp hj
    have hfit : (AsmLine.wrmsg (a + j) b).wellFormed = true :=
      (two_fields_fit_iff _ _ _ _).mpr ⟨by omega, hb b (hjb ▸ List.getElem_mem hlt)⟩
    exact ⟨encode (.wrmsg (BitVec.ofNat 32 (a + j)) (BitVec.ofNat 8 b)),
      by rw [List.getElem?_map, fillCommands_getElem?, hj]; rfl, if_pos hfit⟩

end Sys2Proof

namespace Sys2Proof.Machine

/-! ### The response to a command word (R61, R64, R72) -/

theorem Status.code_ne_illegal {st : Status} (h : st ≠ .illegal) : st.code ≠ Status.illegal.code := by
  cases st with
  | illegal => exact absurd rfl h
  | ok | range => decide

/-- The response with which a step may answer the command word `cw` and leave the state `t` (R61): found bit and value
are zero in an error, and the found bit stands only after a search that stopped on a match. -/
structure MayAnswer (cw : U64) (t : State) (st : Status) (f : Bool) (v : U16) : Prop where
  response : t.response = some (responseWord st f v)
  error : st = .ok ∨ f = false ∧ v = 0x0000
  solver : f = true → ∃ len w, decode cw = .command (.findpfx len w) ∨ decode cw = .command (.recover len w)
  matched : f = true → t.tv = t.tgt

/-- A search that answers with the found bit stopped on a match (R113). -/
theorem search_found {target : U16} {s : State} (h : (search target s).2.found = true) :
    (search target s).1.tv = (search target s).1.tgt := by
  obtain ⟨-, htv⟩ | hs := search_cases target s
  · rw [htv, search_writes]
  · rw [hs] at h
    exact nomatch h

theorem CommandEnds.mayAnswer {cw : U64} {i : Instr} {s t : State} (h : CommandEnds s i t)
    (hd : decode cw = .command i) : ∃ st f v, MayAnswer cw t st f v ∧ st ≠ .illegal := by
  cases h with
  | outOfRange => exact ⟨_, _, _, ⟨rfl, .inr ⟨rfl, rfl⟩, nofun, nofun⟩, nofun⟩
  | stored | loaded | foldedBuffer | foldedZeros => exact ⟨_, _, _, ⟨rfl, .inl rfl, nofun, nofun⟩, nofun⟩
  | solved len target => exact ⟨_, _, _, ⟨rfl, .inl rfl, fun _ => ⟨len, target, .inl hd⟩, search_found⟩, nofun⟩
  | recovered len ecrc => exact ⟨_, _, _, ⟨rfl, .inl rfl, fun _ => ⟨len, ecrc, .inr hd⟩, search_found⟩, nofun⟩

/-- A word that decodes is answered with a status other than ILLEGAL. -/
theorem step_decoded_answers {s : State} {cw : U64} {rest : List HostEvent} {i : Instr}
    (h : s.input = .command cw :: rest) (hd : decode cw = .command i) :
    ∃ t st f v, step s = .next t ∧ MayAnswer cw t st f v ∧ st ≠ .illegal := by
  obtain ⟨u, st, f, v, he, -⟩ := exec_ends i (s.takeEvent rest)
  obtain ⟨st', f', v', ha⟩ := (exec_commandEnds he).mayAnswer hd
  exact ⟨_, st', f', v', (step_of_command h hd).trans he, ha⟩

/-- Every command word is answered. -/
theorem step_command_answers {s : State} {cw : U64} {rest : List HostEvent} (h : s.input = .command cw :: rest) :
    ∃ t st f v, step s = .next t ∧ MayAnswer cw t st f v := by
  cases hd : decode cw with
  | command i =>
    obtain ⟨t, st, f, v, hs, ha, -⟩ := step_decoded_answers h hd
    exact ⟨t, st, f, v, hs, ha⟩
  | illegal c => exact ⟨_, .illegal, false, 0x0000, step_of_illegal h hd, rfl, .inr ⟨rfl, rfl⟩, nofun, nofun⟩

/-- Settles O4: the decoder refuses exactly R64's words, and no decoded command answers ILLEGAL. -/
theorem illegalWordsAreExactlyThese : Obligations.IllegalWordsAreExactlyThese := by
  intro s cw rest h
  refine ⟨fun hi => ?_, fun hl => ?_⟩
  · obtain ⟨e, he⟩ := (decode_illegal_iff cw).mpr hi
    exact step_of_illegal h he
  · cases hd : decode cw with
    | command i =>
      obtain ⟨t, st, f, v, hs, ha, hst⟩ := step_decoded_answers h hd
      refine ⟨t, _, hs, ha.response, ?_⟩
      rw [rwStatus_responseWord]
      exact Status.code_ne_illegal hst
    | illegal e => exact absurd ((decode_illegal_iff cw).mp ⟨e, hd⟩) hl

/-- Settles O6: a command's ways to end name its response's status, found bit and value. -/
theorem everyCommandGetsOneLegalResponse : Obligations.EveryCommandGetsOneLegalResponse := by
  refine ⟨responseWord_toNat, fun s cw rest h => ?_⟩
  obtain ⟨t, st, f, v, hs, ha⟩ := step_command_answers h
  refine ⟨t, _, hs, ha.response, ?_⟩
  rw [rwStatus_responseWord, rwZero_responseWord, rwFound_responseWord, rwValue_responseWord]
  have hst : st.code = 0x00 ∨ st.code = 0x01 ∨ st.code = 0x02 := by cases st <;> decide
  refine ⟨hst, rfl, fun hne => ?_, fun hf => ⟨ha.solver hf, ?_, ha.matched hf⟩⟩
  · exact ha.error.resolve_left fun hok => hne (hok ▸ rfl)
  · exact ha.error.elim (fun hok => hok ▸ rfl) fun hz => absurd (hz.1.symm.trans hf) (by decide)

/-- Settles O9: one next state per kind of event, and a response where the event is a command word. -/
theorem stepAlwaysAnswersANextState : Obligations.StepAlwaysAnswersANextState := by
  intro s
  cases hs : s.input with
  | nil => exact ⟨_, step_of_no_event hs, by simp⟩
  | cons e rest =>
    cases e with
    | command cw =>
      obtain ⟨t, st, f, v, ht, ha⟩ := step_command_answers hs
      exact ⟨t, ht, by simp [ha.response]⟩
    | reset => exact ⟨_, step_of_reset hs (.inl rfl), by simp⟩
    | resetDuring cw => exact ⟨_, step_of_reset hs (.inr ⟨cw, rfl⟩), by simp⟩

/-- Settles O7: a step's equation for a word that decodes. -/
theorem stepRunsDecodedCommand : Obligations.StepRunsDecodedCommand :=
  fun _ _ _ _ => step_of_command

theorem decode_of_decodeTableWord {nbits w : Nat} {i : Instr} (h : decodeTableWord nbits w = some i) :
    decode (tableWord nbits w) = .command i := by
  simp only [decodeTableWord] at h
  split at h
  next j hj => rw [hj, Option.some.inj h]
  next => cases h

/-- Settles O8: the step takes the table word off again, and what is left is the state it was put in front of. -/
theorem fetchedTableWordRunsNext : Obligations.FetchedTableWordRunsNext :=
  fun s _ _ _ h => step_of_command (rest := s.input) rfl (decode_of_decodeTableWord h)

end Sys2Proof.Machine
end

/-! ## Proofs of the statements about the CRC table (40_crc_table.md): its entries, their linearity and their differences -/

section
namespace Sys2Proof

/-! ### The table generator is linear (R85) -/

/-- The bits shifted out add up as the registers do: where both are set, the two `POLY`s cancel (R80). -/
theorem round1_xor (r s : U16) : round1 (r ^^^ s) = round1 r ^^^ round1 s := by
  simp only [round1, BitVec.getLsbD_xor, BitVec.shiftLeft_xor_distrib]
  cases r.getLsbD 15 <;> cases s.getLsbD 15 <;> grind

theorem roundsFrom_xor (n : Nat) (r s : U16) : roundsFrom n (r ^^^ s) = roundsFrom n r ^^^ roundsFrom n s := by
  induction n generalizing r s with
  | zero => rfl
  | succ n ih => rw [roundsFrom, round1_xor, ih]; rfl

theorem tblgen_xor (a b : Byte) : tblgen (a ^^^ b) = tblgen a ^^^ tblgen b := by
  rw [tblgen, zext16, BitVec.setWidth_xor, BitVec.shiftLeft_xor_distrib, roundsFrom_xor]
  rfl

/-- Settles O16: linearity is that of a round; the single-bit entries are eight rounds each. -/
theorem tableIsLinear : Obligations.TableIsLinear :=
  ⟨tblgen_xor, by decide⟩

/-! ### Which entries agree, whole or in their high bytes (R86) -/

/-- Two entries differ by an entry, and only entry 0 has a zero low byte. -/
theorem tblgen_injective : Function.Injective tblgen := by
  intro a b h
  have hx : loByte (tblgen (a ^^^ b)) = 0 := by rw [tblgen_xor, h, BitVec.xor_self]; rfl
  exact BitVec.xor_eq_zero_iff.mp (loByte_tblgen_eq_zero _ hx)

theorem hiByte_tblgen_eq_zero : ∀ k : Byte, hiByte (tblgen k) = 0 ↔ k = 0 ∨ k = 0x89 := by decide

/-- High bytes repeat in pairs at the distance 0x01 XOR 0x08 XOR 0x80 = 0x89, the relation that R86 gives. -/
theorem hiByte_tblgen_eq_iff (a b : Byte) : hiByte (tblgen a) = hiByte (tblgen b) ↔ a = b ∨ a ^^^ b = 0x89 := by
  have hk := hiByte_tblgen_eq_zero (a ^^^ b)
  rwa [tblgen_xor, hiByte_xor, BitVec.ofNat_eq_ofNat, BitVec.xor_eq_zero_iff, BitVec.xor_eq_zero_iff] at hk

/-- The high byte of entry `k`. -/
def highByteOfEntry (k : Nat) : Byte := hiByte (tblgen (BitVec.ofNat 8 k))

theorem msb_ofNat_byte {k : Nat} (h : k < 256) : (BitVec.ofNat 8 k).msb = decide (128 ≤ k) := by
  rw [BitVec.msb_eq_decide, BitVec.toNat_ofNat, Nat.mod_eq_of_lt h]

/-- Each pair of equal high bytes has one entry in the lower half of the table. -/
theorem exists_lower_highByteOfEntry {k : Nat} (h : k < 256) : ∃ j < 128, highByteOfEntry j = highByteOfEntry k := by
  rcases Nat.lt_or_ge k 128 with hk | hk
  · exact ⟨k, hk, rfl⟩
  · have hmsb : (BitVec.ofNat 8 k ^^^ 0x89).msb = false := by
      rw [BitVec.msb_xor, msb_ofNat_byte h, decide_eq_true hk]
      rfl
    refine ⟨(BitVec.ofNat 8 k ^^^ 0x89).toNat, BitVec.toNat_lt_of_msb_false hmsb, ?_⟩
    rw [highByteOfEntry, BitVec.ofNat_toNat, BitVec.setWidth_eq]
    exact (hiByte_tblgen_eq_iff _ _).mpr (.inr (by simp))

/-- The lower half of the table repeats no high byte: 0x89 has its top bit set. -/
theorem highByteOfEntry_injOn : Set.InjOn highByteOfEntry (Finset.range 128) := by
  intro a ha b hb h
  have ha : a < 128 := Finset.mem_range.mp ha
  have hb : b < 128 := Finset.mem_range.mp hb
  obtain h | h := (hiByte_tblgen_eq_iff _ _).mp h
  · have hn := congrArg BitVec.toNat h
    simp only [BitVec.toNat_ofNat] at hn
    omega
  · have hmsb := congrArg BitVec.msb h
    rw [BitVec.msb_xor, msb_ofNat_byte (by omega), msb_ofNat_byte (by omega), decide_eq_false (by omega),
      decide_eq_false (by omega)] at hmsb
    cases hmsb

theorem image_highByteOfEntry :
    (Finset.range 256).image highByteOfEntry = (Finset.range 128).image highByteOfEntry := by
  refine Finset.Subset.antisymm (Finset.image_subset_iff.mpr fun k hk => ?_) (Finset.image_subset_image (by simp))
  obtain ⟨j, hj, hjk⟩ := exists_lower_highByteOfEntry (Finset.mem_range.mp hk)
  exact Finset.mem_image.mpr ⟨j, Finset.mem_range.mpr hj, hjk⟩

/-- Settles O17: the entries differ by linearity, and the lower half's 128 high bytes are all of them. -/
theorem tableEntriesAreDistinct : Obligations.TableEntriesAreDistinct := by
  refine ⟨fun _ _ h => tblgen_injective h, ?_, by decide⟩
  have hall : ((List.range 256).map highByteOfEntry).toFinset = (Finset.range 256).image highByteOfEntry := by
    ext; simp
  exact (congrArg Finset.card (hall.trans image_highByteOfEntry)).trans (Finset.card_image_of_injOn highByteOfEntry_injOn)

/-! ### The listing (R82) -/

theorem listingOfR82_length : listingOfR82.length = 256 := by
  simp only [listingOfR82, List.length_append, List.length_cons, List.length_nil]

theorem listingOfR82_getElem? : ∀ k : Byte, listingOfR82[k.toNat]? = some (tblgen k) := by decide

end Sys2Proof

namespace Sys2Proof.Machine

/-- A step leaves `TBL` alone, or it is a reset and writes the constants (R83). -/
theorem step_tbl {s t : State} (h : step s = .next t) : t.tbl = s.tbl ∨ t.tbl = crcTable := by
  obtain ⟨-, rfl⟩ | ⟨cw, i, rest, -, -, he⟩ | ⟨cw, c, rest, -, -, rfl⟩ | ⟨e, rest, -, -, rfl⟩ := step_cases h
  · exact .inl s.wait_tbl
  · exact .inl (exec_sameFixed he).tbl
  · exact .inl rfl
  · exact .inr (State.takeReset_tbl _)

/-- Settles O15: the listing is the generator's values, reset loads them, and a step keeps the table or loads them again. -/
theorem tableHoldsTheListing : Obligations.TableHoldsTheListing := by
  refine ⟨crcTable_get, listingOfR82_length, listingOfR82_getElem?, fun s t hs h k => ?_⟩
  obtain ht | ht := step_tbl h
  · rw [State.tblRead, ht]
    exact hs k
  · rw [State.tblRead, ht, crcTable_get]

end Sys2Proof.Machine
end

/-! ## Proofs of the statements about the CRC engine (41_crc_engine.md): the byte step, the fold, `prefixfn` as a
power of the round, and what the two commands of the engine do -/

section
namespace Sys2Proof

/-! ### The byte step (R90) -/

/-- The table formula of R90. -/
theorem bytestep_eq (r : U16) (b : Byte) : bytestep r b = tblgen (hiByte r ^^^ b) ^^^ pairHiLo (loByte r) 0x00 := by
  rw [bytestep, Machine.crcTable_get, shiftLeft_eq_pairHiLo]

theorem tblgen_zero : tblgen 0#8 = 0#16 := by decide

theorem bytestep_zero_left (b : Byte) : bytestep 0x0000 b = tblgen b := by
  rw [bytestep_eq]
  show tblgen (0#8 ^^^ b) ^^^ 0#16 = tblgen b
  rw [BitVec.zero_xor, BitVec.xor_zero]

theorem bytestep_hiByte (r : U16) : bytestep r (hiByte r) = pairHiLo (loByte r) 0x00 := by
  rw [bytestep_eq, BitVec.xor_self, tblgen_zero, BitVec.zero_xor]

/-- Settles O18: the table's entries are the generator's, and a shift by a byte brings the low byte up. -/
theorem byteStepIsTheTableFormula : Obligations.ByteStepIsTheTableFormula := by
  refine ⟨bytestep_eq, fun r => ?_, by decide, bytestep_zero_left, bytestep_hiByte, by decide, fun s r b h => ?_⟩
  · rw [bytestep_eq, BitVec.ofNat_eq_ofNat, BitVec.xor_zero]
  · rw [Machine.State.stepByte, h, bytestep_eq, shiftLeft_eq_pairHiLo]

/-! ### The byte step is eight rounds (R95) -/

/-- No round shifts a bit of the low byte out of the top before the eighth is done. -/
theorem roundsFrom_zext16 : ∀ b : Byte, roundsFrom Config.rounds (zext16 b) = pairHiLo b 0x00 := by decide

/-- A word is its high byte moved up, XOR its low byte. -/
theorem hiByte_xor_loByte (r : U16) : (zext16 (hiByte r) <<< 8) ^^^ zext16 (loByte r) = r := by
  ext i hi
  simp only [zext16, hiByte, loByte]
  grind

/-- The two halves of the register are folded apart: the rounds turn the high half into its table entry and move the low
half up. -/
theorem bytestep_eq_roundsFrom (r : U16) (b : Byte) :
    bytestep r b = roundsFrom Config.rounds (r ^^^ (zext16 b <<< 8)) := by
  calc bytestep r b = tblgen (hiByte r) ^^^ tblgen b ^^^ roundsFrom Config.rounds (zext16 (loByte r)) := by
        rw [bytestep_eq, tblgen_xor, roundsFrom_zext16]
    _ = roundsFrom Config.rounds
          ((zext16 (hiByte r) <<< 8) ^^^ (zext16 b <<< 8) ^^^ zext16 (loByte r)) := by
        rw [roundsFrom_xor, roundsFrom_xor, tblgen, tblgen]
    _ = roundsFrom Config.rounds (r ^^^ (zext16 b <<< 8)) := by
        rw [BitVec.xor_assoc, BitVec.xor_comm (zext16 b <<< 8), ← BitVec.xor_assoc, hiByte_xor_loByte]

/-- Settles O22: byte by byte, the table's step is the reference's eight rounds. -/
theorem tableEngineAgreesWithTheBitLoop : Obligations.TableEngineAgreesWithTheBitLoop := by
  intro seed bytes
  induction bytes generalizing seed with
  | nil => rfl
  | cons b bs ih => rw [crc16, crcBitwise, ih, bytestep_eq_roundsFrom]

/-- Register and byte add up apart, by the linearity of the rounds. -/
theorem bytestep_xor (r s : U16) (b c : Byte) : bytestep (r ^^^ s) (b ^^^ c) = bytestep r b ^^^ bytestep s c := by
  simp only [bytestep_eq_roundsFrom, ← roundsFrom_xor, zext16, BitVec.setWidth_xor, BitVec.shiftLeft_xor_distrib]
  congr 1
  ac_rfl

/-! ### Composition, and the CRC of zero bytes (R93, R101) -/

theorem prefixfn_eq_crc16 (s : U16) (n : Nat) : prefixfn s n = crc16 s (List.replicate n 0x00) := by
  induction n generalizing s with
  | zero => rfl
  | succ n ih => exact ih (bytestep s 0x00)

theorem prefixfn_add (s : U16) (m n : Nat) : prefixfn s (m + n) = prefixfn (prefixfn s m) n := by
  rw [prefixfn_eq_crc16, prefixfn_eq_crc16 s, prefixfn_eq_crc16, List.replicate_add, crc16_append]

theorem prefixfn_zero_left (n : Nat) : prefixfn 0x0000 n = 0x0000 := by
  induction n with
  | zero => rfl
  | succ n ih => rw [prefixfn, bytestep_zero_eq_zero.mpr rfl, ih]

/-- Settles O21: both folds take the same steps, and a zero register stays zero under a zero byte. -/
theorem prefixIsTheCrcOfZeros : Obligations.PrefixIsTheCrcOfZeros :=
  ⟨prefixfn_eq_crc16, fun _ => rfl, prefixfn_zero_left⟩

/-- Settles O27: a fold over a concatenation goes on from where the first fold ended. -/
theorem crcComposes : Obligations.CrcComposes :=
  ⟨crc16_append, prefixfn_add⟩

/-! ### Linear functions of a register (R96, R97) -/

/-- `f` is linear over GF(2) (R11). -/
def XorLinear (f : U16 → U16) : Prop := ∀ a b, f (a ^^^ b) = f a ^^^ f b

theorem XorLinear.map_zero {f : U16 → U16} (hf : XorLinear f) : f 0 = 0 :=
  (hf 0 0).trans BitVec.xor_self

/-- A linear function goes through the XOR over a mask's set bits. -/
theorem XorLinear.map_xorOver {f : U16 → U16} (hf : XorLinear f) (g : Fin 16 → U16) (mask : U16) :
    f (xorOver g mask) = xorOver (f ∘ g) mask := by
  have hfold := List.foldl_hom f (g₁ := fun acc i => if mask.getLsbD i.val then acc ^^^ g i else acc)
    (g₂ := fun acc i => if mask.getLsbD i.val then acc ^^^ f (g i) else acc) (l := List.finRange 16) (init := 0)
    fun acc i => by rw [apply_ite f, hf acc (g i)]
  rw [hf.map_zero] at hfold
  exact hfold.symm

theorem getLsbD_selBit (i j : Fin 16) : (selBit i).getLsbD j.val = decide (j = i) := by
  revert i j
  decide

/-- Each selector of the list sets its own bit of the XOR. -/
theorem getLsbD_foldl_selBit (mask : U16) (l : List (Fin 16)) (hl : l.Nodup) (acc : U16) (j : Fin 16) :
    (l.foldl (fun acc i => if mask.getLsbD i.val then acc ^^^ selBit i else acc) acc).getLsbD j.val =
      (acc.getLsbD j.val ^^ (decide (j ∈ l) && mask.getLsbD j.val)) := by
  induction l generalizing acc with
  | nil => simp
  | cons i l ih =>
    obtain ⟨hi, hl⟩ := List.nodup_cons.mp hl
    rw [List.foldl_cons, ih hl, apply_ite (BitVec.getLsbD · j.val), BitVec.getLsbD_xor, getLsbD_selBit]
    by_cases hj : j = i
    · subst hj
      cases hm : mask.getLsbD j.val <;> simp [hi]
    · simp [hj]

/-- A mask is the XOR of the selectors of its set bits (R96). -/
theorem xorOver_selBit (mask : U16) : xorOver selBit mask = mask := by
  refine BitVec.eq_of_getLsbD_eq fun j hj => ?_
  simpa [xorOver] using getLsbD_foldl_selBit mask (List.finRange 16) (List.nodup_finRange 16) 0 ⟨j, hj⟩

/-- A linear function is known from the sixteen selectors. -/
theorem XorLinear.eq_xorOver {f : U16 → U16} (hf : XorLinear f) (s : U16) : f s = xorOver (f ∘ selBit) s := by
  rw [← hf.map_xorOver, xorOver_selBit]

theorem bytestep_zero_linear : XorLinear fun r => bytestep r 0x00 :=
  fun r s => bytestep_xor r s 0x00 0x00

theorem prefixfn_linear (n : Nat) : XorLinear fun s => prefixfn s n := by
  induction n with
  | zero => exact fun _ _ => rfl
  | succ n ih => exact fun a b => (congrArg (prefixfn · n) (bytestep_zero_linear a b)).trans (ih _ _)

/-- Settles O23: every step is linear, so their composition is, and it is known from the selectors. -/
theorem prefixIsLinearInTheSeed : Obligations.PrefixIsLinearInTheSeed :=
  ⟨fun a b n => prefixfn_linear n a b, bytestep_zero_linear, fun s n => (prefixfn_linear n).eq_xorOver s⟩

/-- What is XORed into the seed goes through the fold as it goes through zero bytes, whatever the message (R97). -/
theorem crc16_xor_zeros (r s : U16) (bytes : List Byte) :
    crc16 (r ^^^ s) bytes = crc16 r bytes ^^^ prefixfn s bytes.length := by
  induction bytes generalizing r s with
  | nil => rfl
  | cons b bs ih =>
    have hb : bytestep (r ^^^ s) b = bytestep r b ^^^ bytestep s 0x00 := by
      rw [← bytestep_xor, BitVec.ofNat_eq_ofNat, BitVec.xor_zero]
    rw [crc16, hb, ih]
    rfl

/-- Settles O24: the seed and the message are folded apart. -/
theorem crcIsAffineInTheSeed : Obligations.CrcIsAffineInTheSeed := by
  intro seed bytes
  rw [← crc16_xor_zeros, BitVec.ofNat_eq_ofNat, BitVec.zero_xor]

/-! ### A round and its inverse (R98 part (a)) -/

/-- A 0 shifted out of the top leaves an even register, since `POLY` is odd and was not added; a 1 leaves an odd one. -/
theorem round1Inv_round1 (r : U16) : round1Inv (round1 r) = r := by
  cases htop : r.getLsbD 15 with
  | false =>
    have hr : round1 r = r <<< 1 := by rw [round1, htop]; rfl
    have heven : ¬(r <<< 1).getLsbD 0 = true := by simp
    rw [hr, round1Inv, if_neg heven]
    ext i hi
    grind
  | true =>
    have hr : round1 r = (r <<< 1) ^^^ Config.poly := by rw [round1, htop]; rfl
    have hodd : ((r <<< 1) ^^^ Config.poly).getLsbD 0 = true := by simp [Config.poly]
    rw [hr, round1Inv, if_pos hodd, BitVec.xor_assoc, BitVec.xor_self, BitVec.xor_zero,
      show (0x8000 : U16) = BitVec.twoPow 16 15 from rfl]
    ext i hi
    rw [BitVec.getElem_or, BitVec.getElem_twoPow]
    grind

theorem round1_bijective : Function.Bijective round1 :=
  Finite.injective_iff_bijective.mp (Function.LeftInverse.injective round1Inv_round1)

theorem roundsFrom_bijective (n : Nat) : Function.Bijective (roundsFrom n) := by
  induction n with
  | zero => exact Function.bijective_id
  | succ n ih => exact ih.comp round1_bijective

theorem bytestep_zero (r : U16) : bytestep r 0x00 = roundsFrom 8 r := by
  rw [bytestep_eq_roundsFrom]
  exact congrArg (roundsFrom 8) BitVec.xor_zero

theorem roundsFrom_add (m n : Nat) (r : U16) : roundsFrom (m + n) r = roundsFrom n (roundsFrom m r) := by
  induction m generalizing r with
  | zero => rw [Nat.zero_add, roundsFrom]
  | succ m ih => rw [Nat.succ_add, roundsFrom, ih, roundsFrom]

/-- Each zero byte is eight rounds (R98). -/
theorem prefixfn_eq_roundsFrom (s : U16) (n : Nat) : prefixfn s n = roundsFrom (8 * n) s := by
  induction n generalizing s with
  | zero => rfl
  | succ n ih => rw [prefixfn, bytestep_zero, ih, ← roundsFrom_add, Nat.mul_succ, Nat.add_comm]

/-- Settles O25: both functions are rounds, and a round that has an inverse on one side has it on the other, since the
register's values are finitely many. -/
theorem prefixIsABijection : Obligations.PrefixIsABijection := by
  have hr : Function.RightInverse round1Inv round1 :=
    Function.LeftInverse.rightInverse_of_surjective round1Inv_round1 round1_bijective.surjective
  refine ⟨fun r => ⟨round1Inv_round1 r, hr r⟩, ?_, fun n => ?_⟩
  · simpa only [bytestep_zero] using roundsFrom_bijective 8
  · simpa only [prefixfn_eq_roundsFrom] using roundsFrom_bijective (8 * n)

/-! ### The period of `prefixfn` (R98 part (b))

A register is a polynomial over GF(2) modulo `x^16 + POLY`, and a round multiplies it by `x`: `roundsFrom n 1` is `x^n`.
The order of `x` is 32767 = 7 * 31 * 151. -/

theorem roundsFrom_linear (n : Nat) : XorLinear (roundsFrom n) := roundsFrom_xor n

/-- A selector is a power of `x`. -/
theorem selBit_eq_roundsFrom : ∀ i : Fin 16, selBit i = roundsFrom i.val 1 := by decide

/-- The product of two polynomials: the multiple of `a` by `x^i` for each set bit `i` of `b`. -/
def mulMod (a b : U16) : U16 := xorOver (fun i => roundsFrom i.val a) b

/-- A product of powers of `x` is the power by the sum. -/
theorem roundsFrom_add_one (m n : Nat) : roundsFrom (m + n) 1 = mulMod (roundsFrom m 1) (roundsFrom n 1) := by
  have hi : roundsFrom m ∘ selBit = fun i : Fin 16 => roundsFrom i.val (roundsFrom m 1) := by
    funext i
    rw [Function.comp_apply, selBit_eq_roundsFrom, ← roundsFrom_add, ← roundsFrom_add, Nat.add_comm]
  rw [Nat.add_comm, roundsFrom_add, (roundsFrom_linear m).eq_xorOver, hi, mulMod]

/-- The power of `x` by the number with these binary digits, the least first, by repeated squaring. -/
def powMod : List Nat → U16
  | [] => 1
  | d :: ds => roundsFrom d (mulMod (powMod ds) (powMod ds))

theorem roundsFrom_ofDigits (ds : List Nat) : roundsFrom (Nat.ofDigits 2 ds) 1 = powMod ds := by
  induction ds with
  | nil => rfl
  | cons d ds ih =>
    rw [Nat.ofDigits_cons, powMod, ← ih, ← roundsFrom_add_one, ← roundsFrom_add]
    congr 1
    omega

theorem roundsFrom_one_eq_powMod (n : Nat) : roundsFrom n 1 = powMod (Nat.digits 2 n) := by
  rw [← roundsFrom_ofDigits, Nat.ofDigits_digits]

/-- The round, as an element of the monoid of functions on the register's values. -/
def roundEnd : Function.End U16 := round1

theorem roundEnd_pow (n : Nat) : roundEnd ^ n = roundsFrom n := by
  induction n with
  | zero => rfl
  | succ n ih => rw [pow_succ, ih]; rfl

theorem roundEnd_pow_eq_one_iff (n : Nat) : roundEnd ^ n = 1 ↔ ∀ s, roundsFrom n s = s := by
  rw [roundEnd_pow]
  exact funext_iff

/-- Every register value is a sum of powers of `x`, so rounds that fix 1 fix every value. -/
theorem roundsFrom_eq_self {n : Nat} (h : roundsFrom n 1 = 1) (s : U16) : roundsFrom n s = s := by
  have hsel : roundsFrom n ∘ selBit = selBit := by
    funext i
    rw [Function.comp_apply, selBit_eq_roundsFrom, ← roundsFrom_add, Nat.add_comm, roundsFrom_add, h]
  rw [(roundsFrom_linear n).eq_xorOver, hsel, xorOver_selBit]

theorem prime_dvd_32767 {p : Nat} (hp : p.Prime) (h : p ∣ 32767) : p = 7 ∨ p = 31 ∨ p = 151 := by
  rw [show 32767 = 7 * 31 * 151 from rfl, hp.dvd_mul, hp.dvd_mul, Nat.prime_dvd_prime_iff_eq hp (by norm_num),
    Nat.prime_dvd_prime_iff_eq hp (by norm_num), Nat.prime_dvd_prime_iff_eq hp (by norm_num), or_assoc] at h
  exact h

/-- The order of `x` divides 32767 and none of its three largest proper divisors. -/
theorem orderOf_roundEnd : orderOf roundEnd = 32767 := by
  refine orderOf_eq_of_pow_and_pow_div_prime (by decide) ?_ fun p hp hd h => ?_
  · refine (roundEnd_pow_eq_one_iff _).mpr (roundsFrom_eq_self ?_)
    rw [roundsFrom_one_eq_powMod]
    decide +kernel
  · have hone := (roundEnd_pow_eq_one_iff _).mp h 1
    rw [roundsFrom_one_eq_powMod] at hone
    revert hone
    obtain rfl | rfl | rfl := prime_dvd_32767 hp hd <;> decide +kernel

/-- A byte is eight rounds, and 8 has no factor of the order of `x`. -/
theorem prefixfn_eq_self_iff (n : Nat) : (∀ s, prefixfn s n = s) ↔ 32767 ∣ n := by
  simp only [prefixfn_eq_roundsFrom]
  rw [← roundEnd_pow_eq_one_iff, ← orderOf_dvd_iff_pow_eq_one, orderOf_roundEnd]
  omega

theorem prefixfn_add_period (s : U16) (n : Nat) : prefixfn s (n + 32767) = prefixfn s n := by
  rw [prefixfn_add, (prefixfn_eq_self_iff 32767).mpr (dvd_refl _)]

/-- Settles O26: the lengths that leave every seed as it is are the multiples of 32767. -/
theorem prefixHasPeriod32767 : Obligations.PrefixHasPeriod32767 :=
  ⟨(prefixfn_eq_self_iff 32767).mpr (dvd_refl _), prefixfn_add_period,
    fun n hn h => Nat.le_of_dvd hn ((prefixfn_eq_self_iff n).mp h)⟩

end Sys2Proof

namespace Sys2Proof.Machine

/-! ### The commands CRC16 and PREFIX (R92, R94, R104) -/

/-- CRC16 in range, over the constants of R82 (R92). -/
theorem exec_crc16_ok {s : State} (ht : s.tbl = crcTable) {len : U32} (h : len.toNat ≤ s.msgcap) (seed : U16) :
    exec (.crc16 seed len) s = .next { s with
      r := crc16 seed (s.message len.toNat)
      idx := len
      response := some (responseWord .ok false (crc16 seed (s.message len.toNat))) } := by
  rw [exec, execCrc16_ok h, fold_buffer ht]
  rfl

/-- PREFIX over the constants of R82 (R94). -/
theorem exec_prefixCrc {s : State} (ht : s.tbl = crcTable) (seed : U16) (len : U32) :
    exec (.prefixCrc seed len) s = .next { s with
      r := prefixfn seed len.toNat
      idx := len
      response := some (responseWord .ok false (prefixfn seed len.toNat)) } := by
  rw [exec, execPrefixCrc, fold_zeros ht]
  rfl

/-- Settles O19: the range check, and the fold of the message behind it. -/
theorem crc16FoldsTheMessage : Obligations.Crc16FoldsTheMessage := by
  intro s seed len ht
  refine ⟨fun h => exec_crc16_ok ht h seed, fun h => execCrc16_range h seed, ?_, ?_⟩
  · rintro rfl
    exact exec_crc16_ok ht (Nat.zero_le _) seed
  · simp [encode, opcode]

/-- Settles O20: the fold of zero bytes has no range check, and its value has the period of R98. -/
theorem prefixFoldsZeroBytes : Obligations.PrefixFoldsZeroBytes := by
  intro s seed len ht
  refine ⟨exec_prefixCrc ht seed len, ?_, ?_, fun len' hlen => ⟨_, exec_prefixCrc ht seed len', ?_⟩, ?_⟩
  · rintro rfl
    rfl
  · rintro rfl
    exact prefixfn_zero_left _
  · rw [hlen, prefixfn_add_period]
  · simp [encode, opcode]

/-- A fold and its answer write `R`, `IDX` and the response. -/
theorem respondR_fold_frame (src : ByteSource) (seed : U16) (len : U32) (s : State) :
    respondR (fold src seed len s) =
      { s with
        r := (respondR (fold src seed len s)).r
        idx := (respondR (fold src seed len s)).idx
        response := (respondR (fold src seed len s)).response } := by
  rw [respondR, fold_writes]
  rfl

/-- Settles O46: a refused command writes the response alone, the other two ways to end are a fold's. -/
theorem engineCommandsFrame : Obligations.EngineCommandsFrame := by
  intro i s t hi h
  have ht : t = { s with r := t.r, idx := t.idx, response := t.response } := by
    obtain ⟨seed, len, rfl⟩ | ⟨seed, len, rfl⟩ := hi <;> cases exec_commandEnds h
    · rfl
    · exact respondR_fold_frame .buffer seed len s
    · rfl
    · exact respondR_fold_frame .zeros seed len s
  exact ⟨ht, congrFun (memByte_congr (by rw [ht]) (by rw [ht]))⟩

end Sys2Proof.Machine
end

/-! ## Proofs of the statements about the basis solver (42_basis_solver.md): the Gray-code walk, the basis, the search
step by step, and what the two commands of the solver answer -/

section
namespace Sys2Proof

/-! ### The Gray code and its inverse (R6, R120) -/

theorem gray_linear : XorLinear gray := fun a b => by
  rw [gray, BitVec.ushiftRight_xor_distrib, gray, gray]
  ac_rfl

theorem foldl_shifts_xor (a b : U16) (l : List Nat) (x y : U16) :
    l.foldl (fun acc j => acc ^^^ ((a ^^^ b) >>> j)) (x ^^^ y) =
      l.foldl (fun acc j => acc ^^^ (a >>> j)) x ^^^ l.foldl (fun acc j => acc ^^^ (b >>> j)) y := by
  induction l generalizing x y with
  | nil => rfl
  | cons j l ih =>
    have hj : x ^^^ y ^^^ ((a ^^^ b) >>> j) = (x ^^^ (a >>> j)) ^^^ (y ^^^ (b >>> j)) := by
      rw [BitVec.ushiftRight_xor_distrib]
      ac_rfl
    rw [List.foldl_cons, hj, ih, List.foldl_cons, List.foldl_cons]

theorem grayInv_linear : XorLinear grayInv := fun a b => foldl_shifts_xor a b (List.range 16) 0 0

/-- Both are linear, so it is enough that `grayInv` inverts `gray` on the sixteen selectors. -/
theorem grayInv_gray (n : U16) : grayInv (gray n) = n := by
  have hlin : XorLinear fun n => grayInv (gray n) := fun a b =>
    (congrArg grayInv (gray_linear a b)).trans (grayInv_linear _ _)
  have hsel : (fun n => grayInv (gray n)) ∘ selBit = selBit := funext (by decide)
  rw [hlin.eq_xorOver, hsel, xorOver_selBit]

theorem gray_bijective : Function.Bijective gray :=
  Finite.injective_iff_bijective.mp (Function.LeftInverse.injective grayInv_gray)

theorem gray_eq_iff (n p : U16) : gray n = p ↔ n = grayInv p := by
  have hr : Function.RightInverse grayInv gray :=
    Function.LeftInverse.rightInverse_of_surjective grayInv_gray gray_bijective.surjective
  exact ⟨fun h => h ▸ (grayInv_gray n).symm, fun h => h ▸ hr p⟩

theorem grayInv_toNat_eq_zero_iff (p : U16) : (grayInv p).toNat = 0 ↔ p = 0 := by
  have hzero : grayInv p = 0 ↔ p = 0 := by rw [eq_comm, ← gray_eq_iff, gray_linear.map_zero, eq_comm]
  rw [← hzero, ← BitVec.toNat_inj]
  rfl

/-! ### The walk (R114) -/

/-- The lowest set bit is the one below which no bit is set. -/
theorem ctz_eq {k : BitVec 17} {t : Nat} (ht : t < 17) (hset : k.getLsbD t = true)
    (hclear : ∀ i < t, k.getLsbD i = false) : ctz k = t := by
  have hfind : (List.range 17).find? (fun i => k.getLsbD i) = some t :=
    List.find?_range_eq_some.mpr ⟨hset, List.mem_range.mpr ht, fun i hi => by rw [hclear i hi]; rfl⟩
  rw [ctz, hfind]
  rfl

/-- Counting up by one changes the lowest set bit of the new number and the bits below it. -/
theorem xor_succ_eq {n t m : Nat} (h : n + 1 = 2 ^ t * (2 * m + 1)) : n ^^^ (n + 1) = 2 ^ (t + 1) - 1 := by
  have hn : n = 2 ^ t * (2 * m) + (2 ^ t - 1) := by
    have hpos : 0 < 2 ^ t := Nat.two_pow_pos t
    rw [Nat.mul_succ] at h
    omega
  refine Nat.eq_of_testBit_eq fun i => ?_
  rw [Nat.testBit_xor, h, ← Nat.add_zero (2 ^ t * (2 * m + 1)), hn,
    Nat.testBit_two_pow_mul_add _ (Nat.sub_lt (Nat.two_pow_pos t) one_pos),
    Nat.testBit_two_pow_mul_add _ (Nat.two_pow_pos t), Nat.testBit_two_pow_sub_one, Nat.testBit_two_pow_sub_one]
  rcases lt_trichotomy i t with hi | rfl | hi
  · simp [hi, Nat.lt_succ_of_lt hi]
  · simp
  · obtain ⟨d, rfl⟩ := Nat.exists_eq_add_of_lt hi
    have hge : ¬t + d + 1 < t := by omega
    have hd : t + d + 1 - t = d + 1 := by omega
    have hm : (2 * m + 1) / 2 = m := by omega
    simp [hge, hd, hm, Nat.testBit_succ]

theorem gray_low_ones : ∀ t : Fin 16, gray (BitVec.ofNat 16 (2 ^ (t.val + 1) - 1)) = selBit t := by decide

theorem toggle_eq {n m : Nat} {t : Fin 16} (h : n = 2 ^ t.val * (2 * m + 1)) (hn : n < 65536) :
    toggle (BitVec.ofNat 17 n) = t := by
  have hbit (i : Nat) (hi : i < 17) : (BitVec.ofNat 17 n).getLsbD i = n.testBit i := by
    rw [BitVec.getLsbD_ofNat, decide_eq_true hi, Bool.true_and]
  have hctz : ctz (BitVec.ofNat 17 n) = t := by
    refine ctz_eq (by omega) ?_ fun i hi => ?_
    · rw [hbit _ (by omega), h, mul_comm, Nat.testBit_mul_two_pow]
      simp
    · rw [hbit _ (by omega), h, mul_comm, Nat.testBit_mul_two_pow]
      simp [hi]
  have hne : BitVec.ofNat 17 n ≠ 65536#17 := fun he => by
    rw [← BitVec.toNat_inj, BitVec.toNat_ofNat, BitVec.toNat_ofNat] at he
    omega
  rw [toggle, if_neg hne, hctz]
  exact Fin.ext (Nat.mod_eq_of_lt t.isLt)

/-- Each step toggles one index: the bits that counting up changes are a run of low ones, and `gray` leaves the top one
of a run. -/
theorem candidate_succ {k : Nat} (hk : k < 65536) :
    candidate (k + 1) = candidate k ^^^ selBit (toggle (BitVec.ofNat 17 (k + 1))) := by
  rcases Nat.lt_or_ge (k + 1) 65536 with hlt | hge
  · obtain ⟨t, q, ⟨m, rfl⟩, hm⟩ := Nat.exists_eq_two_pow_mul_odd k.succ_ne_zero
    have ht : t < 16 := (Nat.pow_lt_pow_iff_right one_lt_two).mp <|
      lt_of_le_of_lt (Nat.le_of_dvd k.succ_pos ⟨_, hm⟩) hlt
    have hflip : candidate k ^^^ candidate (k + 1) = selBit ⟨t, ht⟩ := by
      rw [candidate, candidate, ← gray_linear, ← BitVec.ofNat_xor, xor_succ_eq hm, gray_low_ones ⟨t, ht⟩]
    rw [toggle_eq (t := ⟨t, ht⟩) hm hlt, ← hflip, ← BitVec.xor_assoc, BitVec.xor_self, BitVec.zero_xor]
  · obtain rfl : k = 65535 := by omega
    decide

theorem stepOf_toNat (p : U16) : (stepOf p).toNat = if p = 0x0000 then 65536 else (grayInv p).toNat := by
  rw [stepOf, apply_ite BitVec.toNat, BitVec.toNat_setWidth_of_le (by decide)]
  rfl

theorem stepOf_bounds (p : U16) : 1 ≤ (stepOf p).toNat ∧ (stepOf p).toNat ≤ 65536 := by
  rw [stepOf_toNat]
  split_ifs with hp
  · decide
  · have hne : (grayInv p).toNat ≠ 0 := mt (grayInv_toNat_eq_zero_iff p).mp hp
    have hlt := (grayInv p).isLt
    omega

/-- The walk meets each subset at one step (R120). -/
theorem candidate_eq_iff {k : Nat} (h1 : 1 ≤ k) (hk : k ≤ 65536) (p : U16) :
    candidate k = p ↔ k = (stepOf p).toNat := by
  have hzero := grayInv_toNat_eq_zero_iff p
  have hlt := (grayInv p).isLt
  rw [candidate, gray_eq_iff, ← BitVec.toNat_inj, BitVec.toNat_ofNat, stepOf_toNat]
  split_ifs with hp
  · rw [hzero.mpr hp]
    omega
  · have hne := mt hzero.mp hp
    omega

theorem candidate_stepOf (p : U16) : candidate (stepOf p).toNat = p :=
  (candidate_eq_iff (stepOf_bounds p).1 (stepOf_bounds p).2 p).mpr rfl

theorem existsUnique_step (p : U16) : ∃! k : Nat, (1 ≤ k ∧ k ≤ 65536) ∧ candidate k = p := by
  refine ⟨(stepOf p).toNat, ⟨stepOf_bounds p, candidate_stepOf p⟩, ?_⟩
  rintro k ⟨⟨h1, hk⟩, hp⟩
  exact (candidate_eq_iff h1 hk p).mp hp

/-- Settles O29: counting up changes a run of low bits, whose Gray code is one bit, and `gray` has an inverse. -/
theorem grayWalkTestsEverySubsetOnce : Obligations.GrayWalkTestsEverySubsetOnce :=
  ⟨fun _ => candidate_succ, existsUnique_step, by rfl, by rfl, by decide⟩

/-! ### `prefixfn` as a bijection (R98, R119) -/

theorem prefixfn_bijective (len : Nat) : Function.Bijective fun p : U16 => prefixfn p len :=
  prefixIsABijection.2.2 len

theorem prefixfn_inj {p q : U16} {len : Nat} : prefixfn p len = prefixfn q len ↔ p = q :=
  (prefixfn_bijective len).injective.eq_iff

theorem exists_prefix (len : Nat) (target : U16) : ∃ p, prefixfn p len = target :=
  (prefixfn_bijective len).surjective target

/-- A candidate maps to the image of `p` at the step of `p` and at no other. -/
theorem prefixfn_candidate_eq_iff {k : Nat} (h1 : 1 ≤ k) (hk : k ≤ 65536) (p : U16) (len : Nat) :
    prefixfn (candidate k) len = prefixfn p len ↔ k = (stepOf p).toNat :=
  prefixfn_inj.trans (candidate_eq_iff h1 hk p)

/-- The plain search answers the preimage (R115, R116). -/
theorem findPrefix_prefixfn (p : U16) (len : Nat) : findPrefix len (prefixfn p len) = ⟨p, true⟩ := by
  obtain ⟨h1, hk⟩ := stepOf_bounds p
  obtain ⟨j, hj⟩ := Nat.exists_eq_add_of_le' h1
  have hp : candidate (j + 1) = p := hj ▸ candidate_stepOf p
  have hfirst : ∀ i < j, prefixfn (candidate (i + 1)) len ≠ prefixfn p len := fun i hi => by
    rw [ne_eq, prefixfn_candidate_eq_iff (by omega) (by omega)]
    omega
  have hfind : (List.range Config.nstep).find? (fun j => prefixfn (candidate (j + 1)) len = prefixfn p len) = some j :=
    List.find?_range_eq_some.mpr ⟨decide_eq_true (by rw [hp]), List.mem_range.mpr (show j < 65536 by omega),
      fun i hi => by rw [decide_eq_false (hfirst i hi)]; rfl⟩
  unfold findPrefix
  rw [hfind, ← hp]

/-! ### The basis (R111, R112) -/

/-- A zero byte moves the bits of the low byte up by eight places. -/
theorem bytestep_selBit : ∀ i j : Fin 16, j.val = i.val + 8 → bytestep (selBit i) 0x00 = selBit j := by decide

theorem basisTable_succ_get (len : Nat) {i j : Fin 16} (h : j.val = i.val + 8) :
    (basisTable (len + 1)).get i = (basisTable len).get j := by
  rw [Machine.basisTable_get, prefixfn, bytestep_selBit i j h, Machine.basisTable_get]

/-- Settles O31: the first of `L + 1` zero bytes takes a low selector to a high one; the five rows are computed. -/
theorem basisOfSmallLengths : Obligations.BasisOfSmallLengths := by
  exact ⟨by decide +kernel, Machine.basisTable_get 0, by decide, by decide,
    fun len _ _ => basisTable_succ_get len⟩

end Sys2Proof

namespace Sys2Proof.Machine

/-! ### The search, step by step (R113, R116) -/

theorem searchBody_iterate_writes (n : Nat) (s : State) :
    searchBody^[n] s =
      { s with k := (searchBody^[n] s).k, tv := (searchBody^[n] s).tv, cand := (searchBody^[n] s).cand } := by
  induction n generalizing s with
  | zero => rfl
  | succ n ih => exact ih (searchBody s)

theorem ofNat_succ_step (n : Nat) : BitVec.ofNat 17 (n + 1) = BitVec.ofNat 17 n + 1 := BitVec.ofNat_add n 1

theorem decide_succ_mod_two (n : Nat) : decide ((n + 1) % 2 = 1) = !decide (n % 2 = 1) := by
  rcases Nat.mod_two_eq_zero_or_one n with h | h <;> simp [Nat.add_mod, h]

section
variable {s : State} (target : U16)

theorem search_k (n : Nat) : (searchBody^[n] (searchStart target s)).k = BitVec.ofNat 17 n := by
  induction n with
  | zero => rfl
  | succ n ih => rw [Function.iterate_succ_apply', searchBody_k, ih, ofNat_succ_step]

theorem search_k_toNat {n : Nat} (hn : n ≤ 65536) : (searchBody^[n] (searchStart target s)).k.toNat = n := by
  rw [search_k, BitVec.toNat_ofNat]
  omega

/-- With the selectors of R29 a step toggles one bit of `CAND`. -/
theorem search_cand_succ (hs : s.sel = selTable) (n : Nat) :
    (searchBody^[n + 1] (searchStart target s)).cand =
      (searchBody^[n] (searchStart target s)).cand ^^^ selBit (toggle (BitVec.ofNat 17 (n + 1))) := by
  have hsel : (searchBody^[n] (searchStart target s)).sel = selTable := by rw [searchBody_iterate_writes, ← hs]; rfl
  rw [Function.iterate_succ_apply', searchBody_cand, search_k, State.selRead, hsel, selTable_get, ofNat_succ_step]

/-- `CAND` follows the walk of R114. -/
theorem search_cand (hs : s.sel = selTable) {n : Nat} (hn : n ≤ 65536) :
    (searchBody^[n] (searchStart target s)).cand = candidate n := by
  induction n with
  | zero => rfl
  | succ n ih => rw [search_cand_succ target hs, ih (Nat.le_of_succ_le hn), candidate_succ hn]

/-- `CAND` is the set of the indices toggled an odd number of times (R116). -/
theorem search_cand_getLsbD (hs : s.sel = selTable) (n : Nat) (i : Fin 16) :
    (searchBody^[n] (searchStart target s)).cand.getLsbD i.val =
      decide (((List.range n).filter fun j => toggle (BitVec.ofNat 17 (j + 1)) = i).length % 2 = 1) := by
  induction n with
  | zero => simp
  | succ n ih =>
    rw [search_cand_succ target hs, BitVec.getLsbD_xor, ih, getLsbD_selBit, List.range_succ, List.filter_append,
      List.length_append]
    by_cases hi : toggle (BitVec.ofNat 17 (n + 1)) = i
    · simp [hi, decide_succ_mod_two]
    · simp [hi, Ne.symm hi]

/-- Over the basis of length `len`, `TV` is the image of `CAND`: both toggle one index, and `prefixfn` is linear. -/
theorem search_tv (hs : s.sel = selTable) {len : Nat} (hb : s.basis = basisTable len) (n : Nat) :
    (searchBody^[n] (searchStart target s)).tv = prefixfn (searchBody^[n] (searchStart target s)).cand len := by
  induction n with
  | zero => exact (prefixfn_zero_left len).symm
  | succ n ih =>
    have hbasis : (searchBody^[n] (searchStart target s)).basis = basisTable len := by
      rw [searchBody_iterate_writes, ← hb]; rfl
    rw [search_cand_succ target hs, prefixIsLinearInTheSeed.1, ← ih, Function.iterate_succ_apply', searchBody_tv,
      search_k, State.basisRead, hbasis, basisTable_get, ofNat_succ_step]

end

/-- Settles O30: the invariants of the walk, and linearity once more for `TV` as a sum of basis entries. -/
theorem searchStepKeepsTheSubset : Obligations.SearchStepKeepsTheSubset := by
  rintro s len k target ⟨-, hs⟩ hb - hk
  have htv := search_tv target hs hb k
  have hread : (searchBody^[k] (searchStart target s)).basisRead = (fun p => prefixfn p len) ∘ selBit := by
    funext i
    rw [searchBody_iterate_writes, State.basisRead, searchStart_basis, hb, basisTable_get]
    rfl
  refine ⟨search_k_toNat target hk, search_cand_getLsbD target hs k, ?_, ?_, htv⟩
  · rw [search_cand target hs hk, candidate]
    congr 1
    exact BitVec.eq_of_toNat_eq (by simp)
  · rw [hread, htv, ← (prefixfn_linear len).eq_xorOver]

/-! ### Where the search stops (R113, R120) -/

/-- The loop stops at its first match. -/
theorem searchLoop_of_first_match {n j : Nat} {s : State} (hk : s.k.toNat + n ≤ 65536) (hj : j < n)
    (hmatch : (searchBody^[j + 1] s).tv = s.tgt) (hfirst : ∀ i < j, (searchBody^[i + 1] s).tv ≠ s.tgt) :
    searchLoop n s = (searchBody^[j + 1] s, ⟨(searchBody^[j + 1] s).cand, true⟩) := by
  induction n generalizing s j with
  | zero => exact absurd hj (Nat.not_lt_zero j)
  | succ n ih =>
    have hlt : s.k < 65536#17 := BitVec.lt_def.mpr (show s.k.toNat < 65536 by omega)
    have hsucc : (searchBody s).k.toNat = s.k.toNat + 1 := by
      rw [searchBody_k, BitVec.toNat_add, show (1 : BitVec 17).toNat = 1 from rfl]
      omega
    simp only [searchLoop, if_pos hlt]
    cases j with
    | zero => exact if_pos hmatch
    | succ j =>
      refine (if_neg (hfirst 0 j.succ_pos)).trans ?_
      exact ih (s := searchBody s) (by omega) (Nat.lt_of_succ_lt_succ hj) hmatch
        fun i hi => hfirst (i + 1) (Nat.succ_lt_succ hi)

theorem search_of_first_match {target : U16} {s : State} {k : Nat} (h1 : 1 ≤ k) (hk : k ≤ 65536)
    (hmatch : (searchBody^[k] (searchStart target s)).tv = target)
    (hfirst : ∀ i, 1 ≤ i → i < k → (searchBody^[i] (searchStart target s)).tv ≠ target) :
    search target s =
      (searchBody^[k] (searchStart target s), ⟨(searchBody^[k] (searchStart target s)).cand, true⟩) := by
  obtain ⟨j, rfl⟩ := Nat.exists_eq_add_of_le' h1
  exact searchLoop_of_first_match (s := searchStart target s) (Nat.le_of_eq (Nat.zero_add _)) hk hmatch
    fun i hi => hfirst (i + 1) i.succ_pos (Nat.succ_lt_succ hi)

/-- Without the found bit no step matched: the first that did would have ended the search. -/
theorem search_no_match {target : U16} {s : State} (h : (search target s).2.found = false) {k : Nat} (h1 : 1 ≤ k)
    (hk : k ≤ 65536) : (searchBody^[k] (searchStart target s)).tv ≠ target := by
  induction k using Nat.strong_induction_on with
  | _ k ih =>
    intro hmatch
    rw [search_of_first_match h1 hk hmatch fun i hi1 hik => ih i hik hi1 (by omega)] at h
    exact nomatch h

/-- Over the basis of length `len` the search for the image of `p` stops at the step of `p`, with `p` in `CAND`. -/
theorem search_prefixfn {s : State} (hs : s.sel = selTable) {len : Nat} (hb : s.basis = basisTable len) (p : U16) :
    search (prefixfn p len) s =
      ({ s with tgt := prefixfn p len, tv := prefixfn p len, cand := p, k := stepOf p }, ⟨p, true⟩) := by
  obtain ⟨h1, hk⟩ := stepOf_bounds p
  have htv {i : Nat} (hi : i ≤ 65536) :
      (searchBody^[i] (searchStart (prefixfn p len) s)).tv = prefixfn (candidate i) len := by
    rw [search_tv _ hs hb, search_cand _ hs hi]
  have hmatch : (searchBody^[(stepOf p).toNat] (searchStart (prefixfn p len) s)).tv = prefixfn p len := by
    rw [htv hk, candidate_stepOf]
  have hcand : (searchBody^[(stepOf p).toNat] (searchStart (prefixfn p len) s)).cand = p := by
    rw [search_cand _ hs hk, candidate_stepOf]
  have hfirst : ∀ i, 1 ≤ i → i < (stepOf p).toNat →
      (searchBody^[i] (searchStart (prefixfn p len) s)).tv ≠ prefixfn p len := fun i hi1 hi => by
    rw [htv (by omega), ne_eq, prefixfn_candidate_eq_iff hi1 (by omega)]
    omega
  rw [search_of_first_match h1 hk hmatch hfirst, hcand, searchBody_iterate_writes, hmatch, hcand, search_k,
    BitVec.ofNat_toNat, BitVec.setWidth_eq]
  rfl

/-! ### The two commands of the solver (R115, R136) -/

section
variable {s : State} (h : s.tablesOk) {len : U32} {p : U16}
include h

/-- What the solver answers over the constant tables, and where it leaves its registers. -/
theorem solve_prefixfn {target : U16} (hp : prefixfn p len.toNat = target) :
    solve len target s =
      ({ s with
          r := prefixfn (selBit 15) len.toNat
          idx := len
          bi := 16#5
          basis := basisTable len.toNat
          tgt := target
          tv := target
          cand := p
          k := stepOf p }, ⟨p, true⟩) := by
  subst hp
  rw [solve, buildBasis_eq h]
  refine search_prefixfn ?_ ?_ p
  · exact h.2
  · rfl

theorem exec_findpfx {target : U16} (hp : prefixfn p len.toNat = target) :
    exec (.findpfx len target) s = .next { s with
      r := prefixfn (selBit 15) len.toNat
      idx := len
      bi := 16#5
      basis := basisTable len.toNat
      tgt := target
      tv := target
      cand := p
      k := stepOf p
      response := some (responseWord .ok true p) } := by
  rw [exec, execFindpfx, solve_prefixfn h hp]
  rfl

/-- RECOVER solves for the target that phase 0 left: the message's zero-seeded CRC, XOR the checksum (R135). -/
theorem recoverRun_solution {ecrc : U16} (hp : prefixfn p len.toNat = crc16 0x0000 (s.message len.toNat) ^^^ ecrc) :
    (recoverRun len ecrc s).2 = ⟨p, true⟩ := by
  have hf := recoverDelta_fixed len ecrc s
  rw [recoverRun_eq_solve, fold_buffer h.1, solve_prefixfn ⟨hf.tbl.trans h.1, hf.sel.trans h.2⟩ hp]

theorem exec_recover_response {ecrc : U16} (hr : len.toNat ≤ s.msgcap)
    (hp : prefixfn p len.toNat = crc16 0x0000 (s.message len.toNat) ^^^ ecrc) :
    ∃ t, exec (.recover len ecrc) s = .next t ∧ t.response = some (responseWord .ok true p) :=
  ⟨_, execRecover_ok hr ecrc, by rw [respondSolution_response, recoverRun_solution h hp]⟩

end

/-- Settles O32: the preimage exists, and the search stops on it. -/
theorem findpfxFindsThePrefix : Obligations.FindpfxFindsThePrefix := by
  intro s len target h
  obtain ⟨p, hp⟩ := exists_prefix len.toNat target
  refine ⟨p, hp, exec_findpfx h hp, basisTable_get len.toNat, ?_, ?_, fun len' hlen => ?_, ?_⟩
  · rintro rfl
    obtain rfl := prefixfn_inj.mp (hp.trans (prefixfn_zero_left len.toNat).symm)
    exact ⟨rfl, rfl⟩
  · rintro rfl
    exact hp
  · have hp' : prefixfn p len'.toNat = target := by rw [hlen, prefixfn_add_period, hp]
    exact ⟨_, exec_findpfx h hp', rfl⟩
  · simp [encode, opcode]

/-- Settles O33: both searches answer the preimage. -/
theorem solverEqualsThePlainSearch : Obligations.SolverEqualsThePlainSearch := by
  intro s len target h
  refine ⟨?_, ?_⟩
  · obtain ⟨p, rfl⟩ := exists_prefix len.toNat target
    rw [solve_prefixfn h rfl, findPrefix_prefixfn]
  · obtain ⟨p, hp⟩ := exists_prefix len.toNat (crc16 0x0000 (s.message len.toNat) ^^^ target)
    show _ = recoverPrefix (s.message len.toNat) target
    rw [recoverRun_solution h hp, recoverPrefix, length_message, ← hp, findPrefix_prefixfn]

/-- Settles O34: the basis entries are the images of the selectors under a linear bijection. -/
theorem basisIsFullRankSoTheSentinelIsUnreachable : Obligations.BasisIsFullRankSoTheSentinelIsUnreachable := by
  refine ⟨fun len mask hmask hx => hmask ?_, prefixfn_bijective, fun len => (prefixfn_bijective len).existsUnique,
    fun s len target h => ?_, fun s len ecrc h hr => ?_⟩
  · have himage : prefixfn mask len = xorOver (fun i => prefixfn (selBit i) len) mask :=
      (prefixfn_linear len).eq_xorOver mask
    exact prefixfn_inj.mp ((himage.trans hx).trans (prefixfn_zero_left len).symm)
  · obtain ⟨p, rfl⟩ := exists_prefix len.toNat target
    exact ⟨_, p, exec_findpfx h rfl, rfl, fun q => prefixfn_inj⟩
  · obtain ⟨p, hp⟩ := exists_prefix len.toNat (crc16 0x0000 (s.message len.toNat) ^^^ ecrc)
    obtain ⟨t, ht, hrw⟩ := exec_recover_response h hr hp
    refine ⟨t, p, ht, hrw, fun q => ?_⟩
    show prefixfn q len.toNat = crc16 0x0000 (s.message len.toNat) ^^^ ecrc ↔ q = p
    rw [← hp, prefixfn_inj]

/-- Settles O35: no byte is folded, so the basis is the selector table and `prefixfn` the identity. -/
theorem findpfxOfLengthZeroIsTheTarget : Obligations.FindpfxOfLengthZeroIsTheTarget := by
  intro s target h
  refine ⟨⟨_, exec_findpfx h rfl, rfl, fun i => ?_, rfl, fun ht => ?_⟩, fun k _ => ?_⟩
  · rw [State.basisRead, State.selRead, h.2, selTable_get]
    exact basisTable_get 0 i
  · exact if_pos ht
  · have hsel : (buildBasis 0 s).sel = selTable := (buildBasis_fixed 0 s).sel.trans h.2
    have hb : (buildBasis 0 s).basis = basisTable 0 := by rw [buildBasis_eq h]; rfl
    rw [search_tv target hsel hb, prefixfn]

/-- Settles O36: the walk meets `P` at the step `grayInv P`, and a search stops where the walk meets its solution. -/
theorem searchStopsAtTheStepOfItsSolution : Obligations.SearchStopsAtTheStepOfItsSolution := by
  refine ⟨fun p k h1 hk => ?_, fun s len target h => ?_, by decide⟩
  · rw [candidate_eq_iff h1 hk, stepOf_toNat]
  · obtain ⟨p, hp⟩ := exists_prefix len.toNat target
    exact ⟨_, p, exec_findpfx h hp, hp, stepOf_toNat p⟩

/-- Settles O37: a search without a match answers the sentinel, and over the constant tables the preimage is found. -/
theorem zeroValueIsToldApartByTheFoundBit : Obligations.ZeroValueIsToldApartByTheFoundBit := by
  refine ⟨fun s target hf => ⟨?_, fun k => search_no_match hf⟩, fun s len target h => ?_⟩
  · obtain ⟨hs, -⟩ | hs := search_cases target s
    · rw [hs] at hf
      exact nomatch hf
    · rw [hs]
      rfl
  · obtain ⟨p, rfl⟩ := exists_prefix len.toNat target
    refine ⟨_, _, exec_findpfx h rfl, rfl, rwFound_responseWord _ _ _, ?_, ?_⟩
    · rw [rwValue_responseWord, ← prefixfn_inj (len := len.toNat), prefixfn_zero_left]
    · rw [rwValue_responseWord]
      exact fun hp => hp ▸ rfl

/-! ### What the two commands leave unchanged (R20, R40) -/

/-- The fields that are not of the working registers are the fixed parts and `MSG`. -/
theorem SameFixed.eq_update {s t : State} (h : SameFixed s t) (hm : t.msg = s.msg) :
    t = { s with
      r := t.r, idx := t.idx, bi := t.bi, basis := t.basis, tgt := t.tgt, tv := t.tv, cand := t.cand, k := t.k
      response := t.response } := by
  rw [← h.tbl, ← h.sel, ← h.msgcap, ← h.resetCount, ← h.input, ← hm]

/-- Settles O47: no command changes the fixed parts, and only WRMSG changes `MSG`. -/
theorem solverCommandsFrame : Obligations.SolverCommandsFrame := by
  intro i s t hi h
  have hf := exec_sameFixed h
  have hm : t.msg = s.msg := by
    by_contra hne
    obtain ⟨a, b, rfl⟩ := exec_msg_ne h hne
    simp at hi
  exact ⟨hf.eq_update hm, congrFun (memByte_congr hm hf.resetCount)⟩

end Sys2Proof.Machine
end

/-! ## Proofs of the statements about the prefix recovery unit (43_prefix_recovery.md): the checksum as a target for the
solver, and what RECOVER answers -/

section
namespace Sys2Proof

/-! ### A seed's checksum and the target that the solver is given (R135, R138) -/

/-- A seed gives a message its checksum exactly when `prefixfn` takes it to the target of R135. -/
theorem prefixfn_eq_delta_iff (p e : U16) (body : List Byte) :
    prefixfn p body.length = crc16 0x0000 body ^^^ e ↔ crc16 p body = e := by
  have hcancel : crc16 0x0000 body ^^^ (crc16 0x0000 body ^^^ e) = e := by
    rw [← BitVec.xor_assoc, BitVec.xor_self, BitVec.zero_xor]
  rw [crcIsAffineInTheSeed p, ← BitVec.xor_right_inj (crc16 0x0000 body), hcancel]

/-- Every checksum of a message has its seed. -/
theorem exists_seed (body : List Byte) (e : U16) : ∃ p, crc16 p body = e := by
  obtain ⟨p, hp⟩ := exists_prefix body.length (crc16 0x0000 body ^^^ e)
  exact ⟨p, (prefixfn_eq_delta_iff p e body).mp hp⟩

/-- Different seeds give a message different checksums (R138). -/
theorem crc16_seed_inj {p q : U16} {body : List Byte} : crc16 p body = crc16 q body ↔ p = q := by
  rw [crcIsAffineInTheSeed p, crcIsAffineInTheSeed q, BitVec.xor_right_inj, prefixfn_inj]

end Sys2Proof

namespace Sys2Proof.Machine

/-! ### The command RECOVER over the constant tables (R136) -/

/-- `prefixfn_eq_delta_iff` with the first `n` bytes of the buffer as the message. -/
theorem prefixfn_eq_message_delta_iff (s : State) (n : Nat) (p e : U16) :
    prefixfn p n = crc16 0x0000 (s.message n) ^^^ e ↔ crc16 p (s.message n) = e := by
  rw [← prefixfn_eq_delta_iff, length_message]

/-- What RECOVER answers for the checksum made with the seed `p`, and where it leaves the registers. -/
theorem exec_recover {s : State} (h : s.tablesOk) {len : U32} (hr : len.toNat ≤ s.msgcap) {p ecrc : U16}
    (hp : crc16 p (s.message len.toNat) = ecrc) :
    exec (.recover len ecrc) s = .next { s with
      r := prefixfn (selBit 15) len.toNat
      idx := len
      bi := 16#5
      basis := basisTable len.toNat
      tgt := crc16 0x0000 (s.message len.toNat) ^^^ ecrc
      tv := crc16 0x0000 (s.message len.toNat) ^^^ ecrc
      cand := p
      k := stepOf p
      response := some (responseWord .ok true p) } := by
  have hdelta := (prefixfn_eq_message_delta_iff s len.toNat p ecrc).mpr hp
  have hf := recoverDelta_fixed len ecrc s
  rw [exec, execRecover_ok hr, recoverRun_eq_solve, fold_buffer h.1,
    solve_prefixfn ⟨hf.tbl.trans h.1, hf.sel.trans h.2⟩ hdelta, recoverDelta, fold_buffer h.1]
  rfl

/-- Settles O38: the seed of the checksum exists, it is the preimage of the target, and the search stops on it. -/
theorem recoverFindsThePrefix : Obligations.RecoverFindsThePrefix := by
  intro s len ecrc h
  refine ⟨fun hr => ?_, fun hr => execRecover_range hr ecrc, by simp [encode, opcode]⟩
  obtain ⟨p, hp⟩ := exists_seed (s.message len.toNat) ecrc
  have hdelta := (prefixfn_eq_message_delta_iff s len.toNat p ecrc).mpr hp
  have hfind : findPrefix len.toNat (crc16 0x0000 (s.message len.toNat) ^^^ ecrc) = ⟨p, true⟩ := by
    rw [← hdelta, findPrefix_prefixfn]
  refine ⟨p, hdelta, hp, ?_, hfind, ?_, exec_recover h hr hp⟩
  · show recoverPrefix (s.message len.toNat) ecrc = ⟨p, true⟩
    rw [recoverPrefix, length_message, hfind]
  · rintro rfl
    exact hp

/-- Settles O40: RECOVER answers the seed of its checksum, and no other seed gives that checksum. -/
theorem recoverReturnsTheSeedOfTheChecksum : Obligations.RecoverReturnsTheSeedOfTheChecksum := by
  intro s len h hr
  refine ⟨fun p => ⟨_, exec_recover h hr rfl, rfl⟩, fun e => ?_⟩
  obtain ⟨v, rfl⟩ := exists_seed (s.message len.toNat) e
  exact ⟨_, v, exec_recover h hr rfl, rfl, fun q => crc16_seed_inj⟩

/-! ### RECOVER beside the host's sequence, whatever the tables hold (R137) -/

/-- CRC16 with seed 0 and FINDPFX are RECOVER's phases, and the solver's answer does not see the target register that
phase 0 loads. -/
theorem solve_after_crc16 (len : U32) (ecrc : U16) (s : State) :
    (solve len ((fold .buffer 0x0000 len s).r ^^^ ecrc) (respondR (fold .buffer 0x0000 len s))).2 =
      (recoverRun len ecrc s).2 := by
  have hf := recoverDelta_fixed len ecrc s
  rw [recoverRun_eq_solve]
  refine solve_solution_congr ?_ ?_ len _
  · exact (fold_fixed .buffer 0x0000 len s).tbl.trans hf.tbl.symm
  · exact (fold_fixed .buffer 0x0000 len s).sel.trans hf.sel.symm

/-- Settles O39: the host's target is the one that phase 0 leaves, and both solves run over the same tables. -/
theorem recoverEqualsTheHostSequence : Obligations.RecoverEqualsTheHostSequence := by
  intro s len ecrc hr
  refine ⟨_, _, _, _, _, _, execCrc16_ok hr 0x0000, respondR_response _, rfl, respondSolution_response _,
    execRecover_ok hr ecrc, respondSolution_response _, ?_, ?_⟩
  · rw [rwValue_responseWord, rwValue_responseWord, rwValue_responseWord, solve_after_crc16]
  · rw [rwFound_responseWord, rwFound_responseWord, rwValue_responseWord, solve_after_crc16]

end Sys2Proof.Machine
end

/-! ## Proofs of the statements about access to the message buffer (44_buffer_access.md): the byte that WRMSG stores, the
byte that RDMSG answers, and what both leave alone -/

section
namespace Sys2Proof.Machine

/-! ### The byte stored and the bytes beside it (R41, R145) -/

@[simp] theorem memByte_respond (s : State) (st : Status) (f : Bool) (v : U16) :
    (s.respond st f v).memByte = s.memByte :=
  memByte_congr rfl rfl

theorem memByte_memWrite_self (s : State) (a : U32) (v : Byte) : (s.memWrite a v).memByte a.toNat = v := by
  rw [memByte_memWrite, if_pos rfl]

theorem memByte_memWrite_of_ne (s : State) {a : U32} (v : Byte) {x : Nat} (h : x ≠ a.toNat) :
    (s.memWrite a v).memByte x = s.memByte x := by
  rw [memByte_memWrite, if_neg h]

/-- The address of a WRMSG that is in range is the one that it stores to. -/
theorem storeAddress_wrmsg {s : State} {a : U32} (h : a.toNat < s.msgcap) (b : Byte) :
    storeAddress (.wrmsg a b) s = some a.toNat := by
  rw [storeAddress, if_neg (by rw [beyondBuffer_iff]; omega)]

/-! ### The two commands (R145, R146) -/

/-- Settles O41: in range the command is one write of the buffer, and beyond it or with a bad `ARG` it is an error. -/
theorem wrmsgStoresOneByte : Obligations.WrmsgStoresOneByte := by
  intro s a byte
  refine ⟨fun hr => ⟨_, execWrmsg_ok hr byte, rfl, ?_, fun x hx => ?_⟩, fun hr => execWrmsg_range hr byte,
    by simp [encode, opcode], fun cw rest hs hop hhi => ?_⟩
  · rw [memByte_respond, memByte_memWrite_self]
  · rw [memByte_respond, memByte_memWrite_of_ne s byte hx]
  · exact (illegalWordsAreExactlyThese s cw rest hs).1 (.inr (.inr (.inl ⟨hop, hhi⟩)))

/-- Settles O42: in range the value is the byte zero-extended, so its halves are the byte and zero. -/
theorem rdmsgLoadsOneByte : Obligations.RdmsgLoadsOneByte := by
  intro s a
  refine ⟨fun hr => ⟨_, execRdmsg_ok hr, rwStatus_responseWord _ _ _, rwFound_responseWord _ _ _,
    rwZero_responseWord _ _ _, ?_, ?_⟩, fun hr => execRdmsg_range hr, by simp [encode, opcode],
    fun cw rest hs hop harg => ?_⟩
  · rw [rwValue_responseWord, loByte_zext16, State.memRead]
  · rw [rwValue_responseWord, hiByte_zext16]
  · exact (illegalWordsAreExactlyThese s cw rest hs).1 (.inr (.inr (.inr ⟨hop, harg⟩)))

/-- Settles O45: of the ways to end only a WRMSG in range writes `MSG`, and that at its store address alone. -/
theorem bufferCommandsFrame : Obligations.BufferCommandsFrame := by
  intro i s t hi h
  cases exec_commandEnds h with
  | outOfRange => exact ⟨rfl, fun x _ => by rw [memByte_respond]⟩
  | stored a b hr =>
    refine ⟨rfl, fun x hx => ?_⟩
    have hne : x ≠ a.toNat := fun he => hx (by rw [storeAddress_wrmsg hr b, he])
    rw [memByte_respond, memByte_memWrite_of_ne s b hne]
  | loaded a => exact ⟨rfl, fun x _ => by rw [memByte_respond]⟩
  | foldedBuffer | foldedZeros | solved | recovered => simp at hi

end Sys2Proof.Machine
end

/-! ## Proofs of the statements about exceptions (60_exceptions.md): the two error responses, the event after one,
waiting, and a reset's unspecified contents -/

section
namespace Sys2Proof.Machine

/-! ### The two error responses (R162) -/

theorem beyondBuffer_eq_false_iff (s : State) (a : U32) : s.beyondBuffer a = false ↔ a.toNat < s.msgcap := by
  simp [State.beyondBuffer]

theorem longerThanBuffer_eq_false_iff (s : State) (len : U32) :
    s.longerThanBuffer len = false ↔ len.toNat ≤ s.msgcap := by
  simp [State.longerThanBuffer]

theorem outOfRange_iff (i : Instr) (s : State) : outOfRange i s = true ↔
    (∃ a b, i = .wrmsg a b ∧ s.msgcap ≤ a.toNat) ∨ (∃ a, i = .rdmsg a ∧ s.msgcap ≤ a.toNat) ∨
      (∃ seed len, i = .crc16 seed len ∧ s.msgcap < len.toNat) ∨
        ∃ len e, i = .recover len e ∧ s.msgcap < len.toNat := by
  cases i with
  | wrmsg a _ | rdmsg a => rw [outOfRange, beyondBuffer_iff]; simp
  | crc16 _ len | recover len _ => rw [outOfRange, longerThanBuffer_iff]; simp
  | prefixCrc | findpfx => simp [outOfRange]

/-- A command that fails its range check only raises `Range`. -/
theorem exec_of_outOfRange {i : Instr} {s : State} (h : outOfRange i s = true) : exec i s = s.raise .range := by
  obtain ⟨a, b, rfl, hr⟩ | ⟨a, rfl, hr⟩ | ⟨seed, len, rfl, hr⟩ | ⟨len, ecrc, rfl, hr⟩ := (outOfRange_iff i s).mp h
  · exact execWrmsg_range hr b
  · exact execRdmsg_range hr
  · exact execCrc16_range hr seed
  · exact execRecover_range hr ecrc

/-- A command that passes its range check, or has none, runs to its end. -/
theorem exec_of_inRange {i : Instr} {s : State} (h : outOfRange i s = false) :
    ∃ (t : State) (f : Bool) (v : U16), exec i s = .next (t.respond .ok f v) := by
  cases i with
  | wrmsg a b => exact ⟨_, _, _, execWrmsg_ok ((beyondBuffer_eq_false_iff s a).mp h) b⟩
  | rdmsg a => exact ⟨_, _, _, execRdmsg_ok ((beyondBuffer_eq_false_iff s a).mp h)⟩
  | crc16 seed len => exact ⟨_, _, _, execCrc16_ok ((longerThanBuffer_eq_false_iff s len).mp h) seed⟩
  | prefixCrc | findpfx => exact ⟨_, _, _, rfl⟩
  | recover len ecrc => exact ⟨_, _, _, execRecover_ok ((longerThanBuffer_eq_false_iff s len).mp h) ecrc⟩

/-- Settles O44: each range check decides between `raise` and the command's end, and the decoder's refusal is a
`raise` too. -/
theorem errorResponsesChangeNothing : Obligations.ErrorResponsesChangeNothing := by
  refine ⟨fun i s => ⟨exec_of_outOfRange, fun h => ?_⟩, fun s i => outOfRange_iff i s, fun _ _ _ _ => step_of_illegal⟩
  obtain ⟨t, f, v, he⟩ := exec_of_inRange h
  exact ⟨_, _, he, State.respond_response t .ok f v, rwStatus_responseWord .ok f v⟩

/-! ### The event after an error response (R166) -/

/-- A step that answers a command word with an error is one `raise`. -/
theorem step_of_error_response {s t : State} {cw : U64} {rest : List HostEvent} {rw : U32}
    (hs : s.input = .command cw :: rest) (h : step s = .next t) (hrw : t.response = some rw) (he : rwStatus rw ≠ 0x00) :
    ∃ e, step s = (s.takeEvent rest).raise e := by
  cases hd : decode cw with
  | illegal c => exact ⟨.illegal, step_of_illegal hs hd⟩
  | command i =>
    have hx := step_of_command hs hd
    cases ho : outOfRange i (s.takeEvent rest) with
    | true => exact ⟨.range, hx.trans (exec_of_outOfRange ho)⟩
    | false =>
      obtain ⟨u, f, v, hu⟩ := exec_of_inRange ho
      cases h.symm.trans (hx.trans hu)
      cases hrw
      exact absurd (rwStatus_responseWord .ok f v) he

/-- No host can tell a state from the same state with another response. -/
theorem sameVisible_respond (s : State) (st : Status) (f : Bool) (v : U16) : SameVisible (s.respond st f v) s :=
  ⟨rfl, rfl, rfl, rfl, rfl, rfl⟩

/-- Settles O49: `raise` leaves all that is visible as it was, and from states that agree on that a step does the
same. -/
theorem commandAfterAnErrorRunsAsWithoutIt : Obligations.CommandAfterAnErrorRunsAsWithoutIt := by
  intro s t cw rest rw hs h hrw he
  obtain ⟨e, hraise⟩ := step_of_error_response hs h hrw he
  cases h.symm.trans hraise
  exact (sameVisible_respond (s.takeEvent rest) e.status false 0x0000).step

/-! ### Waiting (R173, R180) -/

/-- Settles O10: a step without an event only waits. -/
theorem idleBlockHoldsItsState : Obligations.IdleBlockHoldsItsState :=
  fun _ => step_of_no_event

/-! ### The unspecified contents of MSG (R32, R174; log 2) -/

/-- After a reset no byte of `MSG` has been written. -/
@[simp] theorem memByte_takeReset (s : State) (a : Nat) :
    s.takeReset.memByte a = Config.unwrittenByte (s.resetCount + 1) a := rfl

/-- The reset count changes at a reset event alone. -/
theorem step_resetCount_ne {s t : State} (h : step s = .next t) (hne : t.resetCount ≠ s.resetCount) :
    ∃ e rest, s.input = e :: rest ∧ (e = .reset ∨ ∃ cw, e = .resetDuring cw) := by
  obtain ⟨-, rfl⟩ | ⟨cw, i, rest, -, -, he⟩ | ⟨cw, c, rest, -, -, rfl⟩ | ⟨e, rest, hs, hr, -⟩ := step_cases h
  · exact absurd (State.wait_resetCount s) hne
  · exact absurd (exec_sameFixed he).resetCount hne
  · exact absurd (State.respond_resetCount _ _ _ _) hne
  · exact ⟨e, rest, hs, hr⟩

/-- Settles O54: a reset empties `MSG` and advances the count, which no other step changes. -/
theorem resetSelectsTheContentsAnew : Obligations.ResetSelectsTheContentsAnew := by
  refine ⟨fun s e rest hs he => ?_, fun s hs => ?_⟩
  · exact ⟨_, step_of_reset hs he, State.takeReset_resetCount _, memByte_takeReset _⟩
  · obtain ⟨t, ht, -⟩ := stepAlwaysAnswersANextState s
    refine ⟨t, ht, by_contra fun hne => ?_⟩
    obtain ⟨e, rest, hin, he⟩ := step_resetCount_ne ht hne
    obtain hs | ⟨cw, rest', hs⟩ := hs
    · simp [hs] at hin
    · obtain ⟨rfl, -⟩ := List.cons_eq_cons.mp (hs.symm.trans hin)
      simp at he

end Sys2Proof.Machine
end

/-! ## Proof of the statement about reset (70_reset_and_hazards.md): every piece of state at its value of R32 -/

section
namespace Sys2Proof.Machine

/-! ### The register files after a reset (R27 to R29) -/

@[simp] theorem tblRead_takeReset (s : State) (k : Byte) : s.takeReset.tblRead k = tblgen k := by
  rw [State.tblRead, State.takeReset_tbl, crcTable_get]

@[simp] theorem selRead_takeReset (s : State) (i : Fin 16) : s.takeReset.selRead i = selBit i := by
  rw [State.selRead, State.takeReset_sel, selTable_get]

@[simp] theorem basisRead_takeReset (s : State) (i : Fin 16) : s.takeReset.basisRead i = 0 := by
  rw [State.basisRead, State.takeReset_basis, Vector.get_replicate]

/-- Settles O11: either kind of reset event is one `takeReset`, whose fields and register files hold the values of
R32. -/
theorem resetLeavesTheValuesOfR32 : Obligations.ResetLeavesTheValuesOfR32 := by
  intro s e rest hs he
  refine ⟨_, step_of_reset hs he, tblRead_takeReset _, selRead_takeReset _, ?_⟩
  simp

end Sys2Proof.Machine
end
